-- ==== Sys2Proof/Word.lean ====
section
/-! DEFINITION. The word types of SDHCI-CE (00_scope.md R9, R10): everything is unsigned. -/

namespace Sys2Proof

abbrev Byte := BitVec 8
abbrev Half := BitVec 16
abbrev Word := BitVec 32

/-- One hexadecimal digit of a request word (30_encoding.md R156: "the operation code is the first hexadecimal digit"). -/
abbrev Digit := BitVec 4

/-- Four 32-bit words: the raw response file and the response slots (10_state.md R55). -/
structure Quad where
  w0 : Word
  w1 : Word
  w2 : Word
  w3 : Word
deriving DecidableEq, Repr

end Sys2Proof
end

