-- ==== Sys2Proof/Syntax.lean ====
section
/-! DEFINITION. The instructions: one constructor per row of spec/opcode_table.json (30_encoding.md R120 to R123,
R126 to R137, R140). -/

namespace Sys2Proof

/-- The operand record of `SEND_COMMAND` (10_state.md R24, 30_encoding.md R122); the response slots are outputs. -/
structure Cmd where
  index       : Half
  argument    : Word
  respType    : Half
  dataPresent : Bool
  cmdType     : BitVec 2
  /-- The direction tag; by default `true` is READ and `false` WRITE (30_encoding.md R133). -/
  dir         : Bool
  buf         : Word
  blockCount  : Word
deriving DecidableEq, Repr

/-! Request-side tags (30_encoding.md R130, R132, R134): the default codes. -/

def RespTag.none : Half := 0x0000
def RespTag.r1   : Half := 0x0001
def RespTag.r1b  : Half := 0x0002
def RespTag.r2   : Half := 0x0004
def RespTag.r3   : Half := 0x0008
def RespTag.r6   : Half := 0x0040
def RespTag.r7   : Half := 0x0080

def CmdType.normal  : BitVec 2 := 0
def CmdType.suspend : BitVec 2 := 1
def CmdType.resume  : BitVec 2 := 2
def CmdType.abort   : BitVec 2 := 3

def WidthTag.w1 : Half := 0
def WidthTag.w4 : Half := 1
def WidthTag.w8 : Half := 2

inductive Instr where
  /- The seven public operations (R120). -/
  | init
  | sendCommand (c : Cmd)
  | clkSupply (freq : Word)
  | setBusWidth (width : Half)
  | setSdrMode
  | setDdrMode
  | modeEnable (flag : Byte)
  /- The reserved codes (R123). -/
  | reserved7
  | reserved14
  | reserved15
  /- The six internal sequences (R121). -/
  | changeFrequency (freq : Word)
  | buildTable (addr len : Word)
  | softReset (mask : Byte)
  | respExtract (rt : BitVec 2)
  | errDecode
  | pwrIrq
  /- The hardware-side words: the fields of each format, named as the opcode table names them. -/
  | wordCmd (i : BitVec 6) (t : BitVec 2) (p : Bool) (r : BitVec 2)
  | wordTransmode (m d a c : Bool)
  | wordClk (l : Byte) (h : BitVec 2)
  | wordSwReset (d c a : Bool)
  | wordPwrAck (i b : Bool)
  | wordStsClear (t c : Bool)
  | adma2Entry (addr : Word) (len : Half) (e : Bool)
deriving DecidableEq, Repr

end Sys2Proof
end

