-- ==== Sys2Proof/Config.lean ====
section
/-! DEFINITION. The configuration record Cfg (00_scope.md R8, 92_eei_decisions.md "Open parameters in one list"),
the free values (constants with no body, of which nothing can be proved) and the assembler's lines for a command. -/

namespace Sys2Proof

/-- Byte offsets `OFF_*` of the main register block (10_state.md R40; `RESP1` to `RESP3` follow `RESP0`,
20_memory.md R103 (b)). -/
structure Offsets where
  arg2         : Nat
  blksz        : Nat
  blkcnt       : Nat
  arg          : Nat
  transmode    : Nat
  cmd          : Nat
  resp0        : Nat
  presentState : Nat
  hostCtrl1    : Nat
  pwrCtrl      : Nat
  clkCtrl      : Nat
  timeoutCtrl  : Nat
  swReset      : Nat
  nrmlIntSts   : Nat
  errIntSts    : Nat
  nrmlIntStsEn : Nat
  errIntStsEn  : Nat
  nrmlIntSigEn : Nat
  errIntSigEn  : Nat
  hostCtrl2    : Nat
  caps1        : Nat
  caps2        : Nat
  admaAddr     : Nat
deriving DecidableEq, Repr

/-- Bit positions `BIT_*` and field masks of the registers (10_state.md R41 to R54), each mask as wide as its register;
a name that ends in `Pos` is the lowest bit of a field. With the fields of CMD stand the codes of its response-length
field (30_encoding.md R124, decision D4). -/
structure Bits where
  -- PRESENT_STATE (R41)
  stateCmdDat    : Word
  -- CMD (R42)
  respSelPos     : Nat
  respNone       : BitVec 2
  resp136        : BitVec 2
  resp48         : BitVec 2
  resp48Busy     : BitVec 2
  dataPresentPos : Nat
  cmdTypePos     : Nat
  cmdIdxPos      : Nat
  cmdIdxMask     : Half
  -- TRANSMODE (R43)
  dmaEn          : Half
  blkCntEn       : Half
  autoCmd23En    : Half
  readDir        : Half
  multiBlk       : Half
  -- CLK_CTRL (R45), and the bits of it the environment drives (R40)
  intClkEn       : Half
  clkStable      : Half
  clkEn          : Half
  divHiPos       : Nat
  divLoPos       : Nat
  clkVolatile    : Half
  -- SW_RESET (R46)
  resetAll       : Byte
  resetCmd       : Byte
  resetDat       : Byte
  -- NRML_INT_STS (R47)
  cmdComplete    : Half
  transComplete  : Half
  errInt         : Half
  -- ERR_INT_STS (R48)
  errCmdTimeout  : Half
  errCmdCrc      : Half
  errCmdEndBit   : Half
  errCmdIndex    : Half
  errDataTimeout : Half
  errDataCrc     : Half
  errDataEndBit  : Half
  errCurrent     : Half
  errAutoCmd12   : Half
  errAdma        : Half
  -- HOST_CTRL1 and PWR_CTRL (R49)
  width4         : Byte
  width8         : Byte
  admaSel        : Byte
  busPwrEn       : Byte
  voltSelPos     : Nat
  volt18         : Byte
  volt30         : Byte
  volt33         : Byte
  -- HOST_CTRL2 (R50)
  sdr50ModeEn    : Half
  ddrModeEn      : Half
  -- CAPS1 and CAPS2 (R51)
  clkRateMask    : Word
  clkRatePos     : Nat
  blkLenMask     : Word
  blkLenPos      : Nat
  cap8bit        : Word
  capAdma        : Word
  cap33          : Word
  cap30          : Word
  cap18          : Word
  capSdr50       : Word
  capDdr         : Word
  -- PWRCTL_MASK and PWRCTL_CTL (R53), HC_MODE (R54)
  pwrBusReq      : Word
  pwrIoReq       : Word
  pwrBusSucc     : Word
  pwrIoSucc      : Word
  hcModeEn       : Word
deriving DecidableEq, Repr

/-- Request-side codes (D19 to D21): response tags (30_encoding.md R130), command types (R132), the READ direction (R133),
bus-width tags (R134), operation codes by row of R120, R121 and R123, and status codes by row of 60_exceptions.md R350
and R351. -/
structure Codes where
  tagNone : Half
  tagR1   : Half
  tagR1b  : Half
  tagR2   : Half
  tagR3   : Half
  tagR6   : Half
  tagR7   : Half
  normal  : BitVec 2
  suspend : BitVec 2
  resume  : BitVec 2
  abort   : BitVec 2
  read    : Bool
  w1      : Half
  w4      : Half
  w8      : Half
  ops     : List Digit
  status  : List Nat
deriving DecidableEq, Repr

/-- The layout of a descriptor-table entry, which the source leaves to "the hardware specification" (30_encoding.md R140,
R141; 92_eei_decisions.md D10): the byte offsets of its three fields, whose widths R9 fixes, and its attribute bits. -/
structure EntryLayout where
  attrOff   : Nat
  lenOff    : Nat
  addrOff   : Nat
  valid     : Half
  data      : Half
  endOfList : Half
deriving DecidableEq, Repr

/-- The three fields lie in the eight bytes of an entry and share none. -/
abbrev EntryLayout.Tiles (l : EntryLayout) : Prop :=
  l.attrOff + 2 ≤ 8 ∧ l.lenOff + 2 ≤ 8 ∧ l.addrOff + 4 ≤ 8 ∧
  (l.attrOff + 2 ≤ l.lenOff ∨ l.lenOff + 2 ≤ l.attrOff) ∧ (l.attrOff + 2 ≤ l.addrOff ∨ l.addrOff + 4 ≤ l.attrOff) ∧
  (l.lenOff + 2 ≤ l.addrOff ∨ l.addrOff + 4 ≤ l.lenOff)

/-- The configuration record of R8. -/
structure Cfg where
  regBase        : Word
  off            : Offsets
  pwrctlMaskAddr : Word
  pwrctlCtlAddr  : Word
  hcModeAddr     : Word
  pwrIrqLine     : Nat
  idleRetryMax   : Word
  cmdRetryMax    : Word
  transRetryMax  : Word
  idleSpacingUs  : Nat
  cmdSpacingUs   : Nat
  transSpacingUs : Nat
  maxDiv         : Word
  maxLine        : Word
  blockSize      : Word
  cmdTimeoutVal  : Byte
  switchCmdIndex : Nat
  nrmlIntEnVal   : Half
  errIntEnVal    : Half
  pwrIntEnVal    : Word
  spinBound      : Option Nat
  cacheLine      : Nat
  descAlign      : Nat
  configOps      : Bool
  bits           : Bits
  codes          : Codes
  entry          : EntryLayout
deriving DecidableEq, Repr

/-! Parameters the spec leaves OPEN (D1, D22, D27, D33): uninterpreted (log 8). -/

opaque Config.regBase : Word
opaque Config.pwrctlMaskAddr : Word
opaque Config.pwrctlCtlAddr : Word
opaque Config.hcModeAddr : Word
opaque Config.pwrIrqLine : Nat
opaque Config.cacheLine : Nat

/-! Free values of the environment, applied to State's draw counter (log 2, 3, 16). -/

/-- What a volatile register (named by its number) holds at the n-th draw: 10_state.md R52, U10, U11. -/
opaque Config.freeRead : Nat → Nat → Word
/-- The allocator's answer at the n-th draw: 42_descriptor_builder.md R224, U20. -/
opaque Config.freeAlloc : Nat → Option Word
/-- Whether the interrupt context moves first at the n-th draw: 60_exceptions.md R366. -/
opaque Config.irqFirst : Nat → Bool

/-- The offsets of R40. -/
def Offsets.default : Offsets where
  arg2         := 0x00
  blksz        := 0x04
  blkcnt       := 0x06
  arg          := 0x08
  transmode    := 0x0C
  cmd          := 0x0E
  resp0        := 0x10
  presentState := 0x24
  hostCtrl1    := 0x28
  pwrCtrl      := 0x29
  clkCtrl      := 0x2C
  timeoutCtrl  := 0x2E
  swReset      := 0x2F
  nrmlIntSts   := 0x30
  errIntSts    := 0x32
  nrmlIntStsEn := 0x34
  errIntStsEn  := 0x36
  nrmlIntSigEn := 0x38
  errIntSigEn  := 0x3A
  hostCtrl2    := 0x3E
  caps1        := 0x40
  caps2        := 0x44
  admaAddr     := 0x58

/-- The positions and masks of R41 to R54, and the codes of R124. R40 names bit 1 of CLK_CTRL as its volatile bit. -/
def Bits.default : Bits where
  stateCmdDat    := 0x00000003
  respSelPos     := 0
  respNone       := 0
  resp136        := 1
  resp48         := 2
  resp48Busy     := 3
  dataPresentPos := 5
  cmdTypePos     := 6
  cmdIdxPos      := 8
  cmdIdxMask     := 0x00FF
  dmaEn          := 0x0001
  blkCntEn       := 0x0002
  autoCmd23En    := 0x0008
  readDir        := 0x0010
  multiBlk       := 0x0020
  intClkEn       := 0x0001
  clkStable      := 0x0002
  clkEn          := 0x0004
  divHiPos       := 6
  divLoPos       := 8
  clkVolatile    := 0x0002
  resetAll       := 0x01
  resetCmd       := 0x02
  resetDat       := 0x04
  cmdComplete    := 0x0001
  transComplete  := 0x0002
  errInt         := 0x8000
  errCmdTimeout  := 0x0001
  errCmdCrc      := 0x0002
  errCmdEndBit   := 0x0004
  errCmdIndex    := 0x0008
  errDataTimeout := 0x0010
  errDataCrc     := 0x0020
  errDataEndBit  := 0x0040
  errCurrent     := 0x0080
  errAutoCmd12   := 0x0100
  errAdma        := 0x0200
  width4         := 0x02
  width8         := 0x20
  admaSel        := 0x10
  busPwrEn       := 0x01
  voltSelPos     := 1
  volt18         := 5
  volt30         := 6
  volt33         := 7
  sdr50ModeEn    := 0x0002
  ddrModeEn      := 0x0004
  clkRateMask    := 0x0000FF00
  clkRatePos     := 8
  blkLenMask     := 0x00030000
  blkLenPos      := 16
  cap8bit        := 0x00040000
  capAdma        := 0x00080000
  cap33          := 0x01000000
  cap30          := 0x02000000
  cap18          := 0x04000000
  capSdr50       := 0x00000001
  capDdr         := 0x00000004
  pwrBusReq      := 0x3
  pwrIoReq       := 0xC
  pwrBusSucc     := 0x1
  pwrIoSucc      := 0x4
  hcModeEn       := 0x1

/-- The codes of R120, R121, R130, R132, R133, R134 and R351. -/
def Codes.default : Codes where
  tagNone := RespTag.none
  tagR1   := RespTag.r1
  tagR1b  := RespTag.r1b
  tagR2   := RespTag.r2
  tagR3   := RespTag.r3
  tagR6   := RespTag.r6
  tagR7   := RespTag.r7
  normal  := CmdType.normal
  suspend := CmdType.suspend
  resume  := CmdType.resume
  abort   := CmdType.abort
  read    := true
  w1      := WidthTag.w1
  w4      := WidthTag.w4
  w8      := WidthTag.w8
  ops     := [0, 1, 2, 3, 4, 5, 6, 7, 8, 9, 10, 11, 12, 13, 14, 15]
  status  := [0, 1, 2, 3, 4, 5, 16, 17, 18, 19, 20, 21, 22, 23, 24, 25]

/-- The layout of R140 and R141. -/
def EntryLayout.default : EntryLayout where
  attrOff   := 0
  lenOff    := 2
  addrOff   := 4
  valid     := 0x0001
  data      := 0x0020
  endOfList := 0x0002

/-- The default column of R8. -/
def Cfg.default : Cfg where
  regBase        := Config.regBase
  off            := Offsets.default
  pwrctlMaskAddr := Config.pwrctlMaskAddr
  pwrctlCtlAddr  := Config.pwrctlCtlAddr
  hcModeAddr     := Config.hcModeAddr
  pwrIrqLine     := Config.pwrIrqLine
  idleRetryMax   := 10
  cmdRetryMax    := 10000
  transRetryMax  := 100000
  idleSpacingUs  := 1000
  cmdSpacingUs   := 500
  transSpacingUs := 1000
  maxDiv         := 2046
  maxLine        := 65536
  blockSize      := 512
  cmdTimeoutVal  := 0x0F
  switchCmdIndex := 6
  nrmlIntEnVal   := 0x000B
  errIntEnVal    := 0xFFFF
  pwrIntEnVal    := 0xF
  spinBound      := none
  cacheLine      := Config.cacheLine
  descAlign      := 4
  configOps      := true
  bits           := Bits.default
  codes          := Codes.default
  entry          := EntryLayout.default

/-- The ten error bits the engine decodes (R48). -/
def Bits.errDecoded (b : Bits) : Half :=
  b.errCmdTimeout ||| b.errCmdCrc ||| b.errCmdEndBit ||| b.errCmdIndex ||| b.errDataTimeout ||| b.errDataCrc |||
    b.errDataEndBit ||| b.errCurrent ||| b.errAutoCmd12 ||| b.errAdma

/-- The constraints a legal Cfg meets (92_eei_decisions.md, "Open parameters in one list"; 20_memory.md R86 for
the register base; 70_reset_and_hazards.md R413 for a finite SPIN_BOUND; tags and operation codes tell their names
apart, and so do types, lengths and attribute bits, 30_encoding.md R124, R131, R132, R134, R141; an entry's fields are
apart, R140). -/
structure Cfg.Legal (c : Cfg) : Prop where
  regBase_aligned : c.regBase.toNat % 4 = 0
  maxDiv_even     : c.maxDiv.toNat % 2 = 0
  maxDiv_low      : 2 ≤ c.maxDiv.toNat
  maxDiv_high     : c.maxDiv.toNat ≤ 2046
  maxLine_low     : 1 ≤ c.maxLine.toNat
  maxLine_high    : c.maxLine.toNat ≤ 65536
  blockSize_low   : 1 ≤ c.blockSize.toNat
  blockSize_high  : c.blockSize.toNat ≤ 4095
  idleRetry       : 1 ≤ c.idleRetryMax.toNat
  cmdRetry        : 1 ≤ c.cmdRetryMax.toNat
  transRetry      : 1 ≤ c.transRetryMax.toNat
  nrmlIntEn       : c.nrmlIntEnVal &&& (c.bits.cmdComplete ||| c.bits.transComplete) =
    c.bits.cmdComplete ||| c.bits.transComplete
  errIntEn        : c.errIntEnVal &&& c.bits.errDecoded = c.bits.errDecoded
  switchIndex     : c.switchCmdIndex ≤ 63
  descAlign       : ∃ k, 2 ≤ k ∧ c.descAlign = 2 ^ k
  spinBound       : ∀ b, c.spinBound = some b → 1 ≤ b
  tags            : [c.codes.tagNone, c.codes.tagR1, c.codes.tagR1b, c.codes.tagR2, c.codes.tagR3, c.codes.tagR6,
    c.codes.tagR7].Nodup
  cmdTypes        : [c.codes.normal, c.codes.suspend, c.codes.resume, c.codes.abort].Nodup
  lengths         : [c.bits.respNone, c.bits.resp136, c.bits.resp48, c.bits.resp48Busy].Nodup
  widths          : [c.codes.w1, c.codes.w4, c.codes.w8].Nodup
  ops             : c.codes.ops.Nodup ∧ c.codes.ops.length = 16
  status          : c.codes.status.Nodup ∧ c.codes.status.length = 16
  entryFields     : c.entry.Tiles
  entryBits       : [c.entry.valid, c.entry.data, c.entry.endOfList].Nodup

/-! The assembler's lines for a command (30_encoding.md R152). -/

/-- The command types by name (R132). -/
inductive CmdTypeName where
  | normal
  | suspend
  | resume
  | abort
deriving DecidableEq, Repr

/-- The code of a command type. -/
def Codes.cmdType (k : Codes) : CmdTypeName → BitVec 2
  | .normal => k.normal
  | .suspend => k.suspend
  | .resume => k.resume
  | .abort => k.abort

/-- The line `SEND_COMMAND idx=.. arg=.. resp=.. type=..`; the type defaults to NORMAL, and the operands of a transfer
are 0. -/
def Cmd.plain (k : Codes) (index : Half) (argument : Word) (respType : Half) (t : CmdTypeName := .normal) : Cmd :=
  ⟨index, argument, respType, false, k.cmdType t, false, 0, 0⟩

/-- The line with `data dir=.. buf=.. blocks=..`; `read` is `dir=READ`. -/
def Cmd.withData (k : Codes) (index : Half) (argument : Word) (respType : Half) (read : Bool) (buf blocks : Word)
    (t : CmdTypeName := .normal) : Cmd :=
  ⟨index, argument, respType, true, k.cmdType t, if read then k.read else !k.read, buf, blocks⟩

end Sys2Proof
end

