-- ==== Sys2Proof/WellFormed.lean ====
section
/-! DEFINITION. Well-formed instructions: the limits the spec puts on operands whatever the configuration
(10_state.md R26, 42_descriptor_builder.md R227, 43_command_engine.md R272, 30_encoding.md R127, R137). The limits
that depend on BLOCK_SIZE and CACHE_LINE, and the names they are refused by, are `domainError` of
Machine/Operands.lean, which the machine checks. -/

namespace Sys2Proof

/-- R26: index at most 63; with data, 1 to 65535 blocks and a 4-byte aligned buffer (20_memory.md R88). -/
def Cmd.wf (c : Cmd) : Bool :=
  decide (c.index.toNat ≤ 63) &&
  (!c.dataPresent ||
    (decide (1 ≤ c.blockCount.toNat) && decide (c.blockCount.toNat ≤ 65535) && decide (c.buf.toNat % 4 = 0)))

def Instr.wf : Instr → Bool
  | .init => true
  | .sendCommand c => c.wf
  | .clkSupply _ => true
  | .setBusWidth _ => true
  | .setSdrMode => true
  | .setDdrMode => true
  | .modeEnable _ => true
  | .reserved7 => true
  | .reserved14 => true
  | .reserved15 => true
  | .changeFrequency _ => true
  -- R227: a length above 0 and no wrap past 2^32
  | .buildTable addr len => decide (0 < len.toNat) && decide (addr.toNat + len.toNat ≤ 2 ^ 32)
  -- R272: a combination of RESET_ALL, RESET_CMD, RESET_DAT
  | .softReset mask => decide (mask.toNat ≤ 7)
  | .respExtract _ => true
  | .errDecode => true
  | .pwrIrq => true
  | .wordCmd _ _ _ _ => true
  -- R127: "No other value of tm can be produced": the three multi-block bits are equal
  | .wordTransmode m _ a c => m == a && a == c
  | .wordClk _ _ => true
  | .wordSwReset _ _ _ => true
  | .wordPwrAck _ _ => true
  -- R137: exactly the one-hot mask
  | .wordStsClear t c => t != c
  | .adma2Entry _ _ _ => true

end Sys2Proof
end

