-- ==== Sys2Proof/Decode.lean ====
section
/-! DEFINITION. Decoding and encoding (30_encoding.md). A word is a list of hexadecimal digits. A request word, and
the like-shaped word of an internal sequence, is read operation code first, each operand most significant digit first
(R156: "the operation code followed by the operands in the order of the signature, most significant first";
"left-aligned: the operation code is the first hexadecimal digit"). A hardware-side word is read least significant
digit first, at the place it is written to: the formats share bit patterns, and only the place tells them apart
(log 12). -/

namespace Sys2Proof

/-- Where a word stands: the request port, the sequencer that runs internal sequences (log 9), or the place a
hardware-side word is written to (R126, R127, R128, R135, R136, R137, R140). -/
inductive Place where
  | port
  | sequence
  | cmd
  | transmode
  | clk
  | swReset
  | pwrAck
  | stsClear
  | entry
deriving DecidableEq, Repr

/-- Why a word decodes to no instruction. -/
inductive DecodeError where
  /-- no digit at all -/
  | empty
  /-- fewer digits than the first four bits ask for (R156) -/
  | tooShort
  /-- a digit after the word that is not zero -/
  | trailing
  /-- the two bits below the six of a RESP_EXTRACT word are not zero -/
  | padding
  /-- a bit pattern no word of this place has (R127, R137, R141, the fixed bits of the formats) -/
  | notProduced
deriving DecidableEq, Repr

/-! ### Digits -/

/-- `n` digits of `v`, most significant first. -/
def digitsBE : Nat → Nat → List Digit
  | 0, _ => []
  | n + 1, v => BitVec.ofNat 4 (v / 16 ^ n) :: digitsBE n v

/-- `n` digits of `v`, least significant first. -/
def digitsLE : Nat → Nat → List Digit
  | 0, _ => []
  | n + 1, v => BitVec.ofNat 4 v :: digitsLE n (v / 16)

/-- Read `n` digits, most significant first, onto `acc`. -/
def takeBE : Nat → List Digit → Nat → Option (Nat × List Digit)
  | 0, ds, acc => some (acc, ds)
  | _ + 1, [], _ => none
  | n + 1, d :: ds, acc => takeBE n ds (acc * 16 + d.toNat)

/-- Read `n` digits, least significant first. -/
def takeLE : Nat → List Digit → Option (Nat × List Digit)
  | 0, ds => some (0, ds)
  | _ + 1, [] => none
  | n + 1, d :: ds =>
    match takeLE n ds with
    | none => none
    | some (v, rest) => some (d.toNat + 16 * v, rest)

/-- The word ended: what follows it must be zero digits (padding to whole bytes). -/
def ended (i : Instr) (rest : List Digit) : Except DecodeError Instr :=
  if rest.all (fun d => d == 0) then .ok i else .error .trailing

/-- Bits `lo + n - 1 .. lo` of `v`. -/
def bitsOf (v lo n : Nat) : Nat := v / 2 ^ lo % 2 ^ n

def bitOf (v lo : Nat) : Bool := v / 2 ^ lo % 2 == 1

/-! ### Requests and internal sequences -/

/-- The descriptor of a `SEND_COMMAND` word from its 132 operand bits; bit numbers as in R156 and the opcode table. -/
def cmdOfBits (v : Nat) : Cmd where
  index       := BitVec.ofNat 16 (bitsOf v 116 16)
  argument    := BitVec.ofNat 32 (bitsOf v 84 32)
  respType    := BitVec.ofNat 16 (bitsOf v 68 16)
  dataPresent := bitOf v 67
  cmdType     := BitVec.ofNat 2 (bitsOf v 65 2)
  dir         := bitOf v 64
  buf         := BitVec.ofNat 32 (bitsOf v 32 32)
  blockCount  := BitVec.ofNat 32 (bitsOf v 0 32)

def bitsOfCmd (c : Cmd) : Nat :=
  c.index.toNat * 2 ^ 116 + c.argument.toNat * 2 ^ 84 + c.respType.toNat * 2 ^ 68 + c.dataPresent.toNat * 2 ^ 67
    + c.cmdType.toNat * 2 ^ 65 + c.dir.toNat * 2 ^ 64 + c.buf.toNat * 2 ^ 32 + c.blockCount.toNat

/-- Read `n` operand digits, then build the instruction from their value. -/
def withOperand (n : Nat) (rest : List Digit) (f : Nat → Instr) : Except DecodeError Instr :=
  match takeBE n rest 0 with
  | none => .error .tooShort
  | some (v, tail) => ended (f v) tail

/-- R120, R121, R123: the first digit is the operation code and decides the length (R156). The operands of an
internal sequence stand as the opcode table lists them; the two bits of RESP_EXTRACT are left-aligned in their digit. -/
def decodeOp : List Digit → Except DecodeError Instr
  | [] => .error .empty
  | op :: rest =>
    match op.toNat with
    | 0 => ended .init rest
    | 1 => withOperand 33 rest (fun v => .sendCommand (cmdOfBits v))
    | 2 => withOperand 8 rest (fun v => .clkSupply (BitVec.ofNat 32 v))
    | 3 => withOperand 4 rest (fun v => .setBusWidth (BitVec.ofNat 16 v))
    | 4 => ended .setSdrMode rest
    | 5 => ended .setDdrMode rest
    | 6 => withOperand 2 rest (fun v => .modeEnable (BitVec.ofNat 8 v))
    | 7 => ended .reserved7 rest
    | 8 => withOperand 8 rest (fun v => .changeFrequency (BitVec.ofNat 32 v))
    | 9 => withOperand 16 rest
        (fun v => .buildTable (BitVec.ofNat 32 (bitsOf v 32 32)) (BitVec.ofNat 32 (bitsOf v 0 32)))
    | 10 => withOperand 2 rest (fun v => .softReset (BitVec.ofNat 8 v))
    | 11 =>
      match rest with
      | [] => .error .tooShort
      | d :: tail =>
        if d.toNat % 4 = 0 then ended (.respExtract (BitVec.ofNat 2 (d.toNat / 4))) tail else .error .padding
    | 12 => ended .errDecode rest
    | 13 => ended .pwrIrq rest
    | 14 => ended .reserved14 rest
    | _ => ended .reserved15 rest

/-! ### Hardware-side words -/

/-- R126: bits 15:14 and 4:2 are zero. -/
def wordOfCmd (v : Nat) : Except DecodeError Instr :=
  if bitsOf v 14 2 = 0 ∧ bitsOf v 2 3 = 0 then
    .ok (.wordCmd (BitVec.ofNat 6 (bitsOf v 8 6)) (BitVec.ofNat 2 (bitsOf v 6 2)) (bitOf v 5) (BitVec.ofNat 2 (bitsOf v 0 2)))
  else .error .notProduced

/-- R127: bit 0 set, bits 15:6 and 2 zero, and the three multi-block bits equal. -/
def wordOfTransmode (v : Nat) : Except DecodeError Instr :=
  if bitsOf v 6 10 = 0 ∧ bitOf v 2 = false ∧ bitOf v 0 = true ∧ bitOf v 5 = bitOf v 3 ∧ bitOf v 3 = bitOf v 1 then
    .ok (.wordTransmode (bitOf v 5) (bitOf v 4) (bitOf v 3) (bitOf v 1))
  else .error .notProduced

/-- R128: bits 5:0 are 000001. -/
def wordOfClk (v : Nat) : Except DecodeError Instr :=
  if bitsOf v 0 6 = 1 then
    .ok (.wordClk (BitVec.ofNat 8 (bitsOf v 8 8)) (BitVec.ofNat 2 (bitsOf v 6 2)))
  else .error .notProduced

/-- R135: bits 7:3 zero. -/
def wordOfSwReset (v : Nat) : Except DecodeError Instr :=
  if bitsOf v 3 5 = 0 then .ok (.wordSwReset (bitOf v 2) (bitOf v 1) (bitOf v 0)) else .error .notProduced

/-- R136: bits 31:3 and 1 zero. -/
def wordOfPwrAck (v : Nat) : Except DecodeError Instr :=
  if bitsOf v 3 29 = 0 ∧ bitOf v 1 = false then .ok (.wordPwrAck (bitOf v 2) (bitOf v 0)) else .error .notProduced

/-- R137: exactly one of bits 1 and 0. -/
def wordOfStsClear (v : Nat) : Except DecodeError Instr :=
  if bitsOf v 2 14 = 0 ∧ bitOf v 1 ≠ bitOf v 0 then .ok (.wordStsClear (bitOf v 1) (bitOf v 0)) else .error .notProduced

/-- R140, R141: the attribute is 0x0021 or 0x0023. -/
def wordOfEntry (v : Nat) : Except DecodeError Instr :=
  if bitsOf v 2 14 = 8 ∧ bitOf v 0 = true then
    .ok (.adma2Entry (BitVec.ofNat 32 (bitsOf v 32 32)) (BitVec.ofNat 16 (bitsOf v 16 16)) (bitOf v 1))
  else .error .notProduced

/-- Read a hardware-side word of `n` digits. -/
def decodeWord (n : Nat) (read : Nat → Except DecodeError Instr) (ds : List Digit) : Except DecodeError Instr :=
  match takeLE n ds with
  | none => .error .tooShort
  | some (v, rest) =>
    match read v with
    | .error e => .error e
    | .ok i => ended i rest

/-- The decoder: total, by place. -/
def decodeAt (p : Place) (ds : List Digit) : Except DecodeError Instr :=
  match p with
  | .port => decodeOp ds
  | .sequence => decodeOp ds
  | .cmd => decodeWord 4 wordOfCmd ds
  | .transmode => decodeWord 4 wordOfTransmode ds
  | .clk => decodeWord 4 wordOfClk ds
  | .swReset => decodeWord 2 wordOfSwReset ds
  | .pwrAck => decodeWord 8 wordOfPwrAck ds
  | .stsClear => decodeWord 4 wordOfStsClear ds
  | .entry => decodeWord 16 wordOfEntry ds

/-! ### The encoder -/

/-- Where an instruction's word stands. -/
def Instr.place : Instr → Place
  | .init => .port
  | .sendCommand _ => .port
  | .clkSupply _ => .port
  | .setBusWidth _ => .port
  | .setSdrMode => .port
  | .setDdrMode => .port
  | .modeEnable _ => .port
  | .reserved7 => .port
  | .reserved14 => .port
  | .reserved15 => .port
  | .changeFrequency _ => .sequence
  | .buildTable _ _ => .sequence
  | .softReset _ => .sequence
  | .respExtract _ => .sequence
  | .errDecode => .sequence
  | .pwrIrq => .sequence
  | .wordCmd _ _ _ _ => .cmd
  | .wordTransmode _ _ _ _ => .transmode
  | .wordClk _ _ => .clk
  | .wordSwReset _ _ _ => .swReset
  | .wordPwrAck _ _ => .pwrAck
  | .wordStsClear _ _ => .stsClear
  | .adma2Entry _ _ _ => .entry

/-- The word of an instruction, as digits in the order `decodeAt` reads them. -/
def encode : Instr → List Digit
  | .init => [0x0]
  | .sendCommand c => 0x1 :: digitsBE 33 (bitsOfCmd c)
  | .clkSupply f => 0x2 :: digitsBE 8 f.toNat
  | .setBusWidth w => 0x3 :: digitsBE 4 w.toNat
  | .setSdrMode => [0x4]
  | .setDdrMode => [0x5]
  | .modeEnable g => 0x6 :: digitsBE 2 g.toNat
  | .reserved7 => [0x7]
  | .changeFrequency f => 0x8 :: digitsBE 8 f.toNat
  | .buildTable a l => 0x9 :: digitsBE 16 (a.toNat * 2 ^ 32 + l.toNat)
  | .softReset m => 0xA :: digitsBE 2 m.toNat
  | .respExtract r => [0xB, BitVec.ofNat 4 (r.toNat * 4)]
  | .errDecode => [0xC]
  | .pwrIrq => [0xD]
  | .reserved14 => [0xE]
  | .reserved15 => [0xF]
  | .wordCmd i t p r => digitsLE 4 (i.toNat * 2 ^ 8 + t.toNat * 2 ^ 6 + p.toNat * 2 ^ 5 + r.toNat)
  | .wordTransmode m d a c => digitsLE 4 (m.toNat * 2 ^ 5 + d.toNat * 2 ^ 4 + a.toNat * 2 ^ 3 + c.toNat * 2 + 1)
  | .wordClk l h => digitsLE 4 (l.toNat * 2 ^ 8 + h.toNat * 2 ^ 6 + 1)
  | .wordSwReset d c a => digitsLE 2 (d.toNat * 2 ^ 2 + c.toNat * 2 + a.toNat)
  | .wordPwrAck i b => digitsLE 8 (i.toNat * 2 ^ 2 + b.toNat)
  | .wordStsClear t c => digitsLE 4 (t.toNat * 2 + c.toNat)
  | .adma2Entry a l e => digitsLE 16 (a.toNat * 2 ^ 32 + l.toNat * 2 ^ 16 + 0x20 + e.toNat * 2 + 1)

/-! ### Words numbered as the opcode table numbers them -/

/-- How many bits the opcode table gives the row, in whole bytes. -/
def Instr.rowBits : Instr → Nat
  | .init => 8
  | .sendCommand _ => 136
  | .clkSupply _ => 40
  | .setBusWidth _ => 24
  | .setSdrMode => 8
  | .setDdrMode => 8
  | .modeEnable _ => 16
  | .reserved7 => 8
  | .reserved14 => 8
  | .reserved15 => 8
  | .changeFrequency _ => 40
  | .buildTable _ _ => 72
  | .softReset _ => 16
  | .respExtract _ => 8
  | .errDecode => 8
  | .pwrIrq => 8
  | .wordCmd _ _ _ _ => 16
  | .wordTransmode _ _ _ _ => 16
  | .wordClk _ _ => 16
  | .wordSwReset _ _ _ => 8
  | .wordPwrAck _ _ => 32
  | .wordStsClear _ _ => 16
  | .adma2Entry _ _ _ => 64

/-- The places whose words have `nbits` bits, in the order they are tried (log 12). -/
def wordPlaces (nbits : Nat) : List Place :=
  if nbits = 8 then [.swReset]
  else if nbits = 16 then [.transmode, .stsClear, .clk, .cmd]
  else if nbits = 32 then [.pwrAck]
  else if nbits = 64 then [.entry]
  else []

/-- The first place of the list that decodes the digits. -/
def decodeFirst (ds : List Digit) : List Place → Option Instr
  | [] => none
  | p :: ps =>
    match decodeAt p ds with
    | .ok i => some i
    | .error _ => decodeFirst ds ps

/-- The longest word, `SEND_COMMAND`, has 34 digits (R156). -/
def longestWord : Nat := 34

/-- The digits of an opcode-table word: bit 0 is the least significant bit of the first digit. -/
def tableDigits (nbits w : Nat) : List Digit := digitsLE longestWord (w % 2 ^ nbits)

/-- The instruction the decoder reads from an opcode-table word of `nbits` bits: a request or sequence word where the
row of its operation code has that many bits, else a hardware-side word of that width (log 12). -/
def decodeTableWord (nbits w : Nat) : Option Instr :=
  match decodeOp (tableDigits nbits w) with
  | .ok i => if i.rowBits = nbits then some i else decodeFirst (tableDigits nbits w) (wordPlaces nbits)
  | .error _ => decodeFirst (tableDigits nbits w) (wordPlaces nbits)

end Sys2Proof
end

