-- ==== Sys2Proof/Machine/State.lean ====
section
/-! DEFINITION. The state of SDHCI-CE (10_state.md; INVENTORY.md lists every field with its rule), the machine after
reset (10_state.md R70, 70_reset_and_hazards.md R400), and the reasons a step can stop. Plain data only. -/

namespace Sys2Proof.Machine

/-! ### Names -/

/-- The registers of the main block, by name (R40). -/
inductive Reg where
  | arg2 | blksz | blkcnt | arg | transmode | cmd
  | resp0 | resp1 | resp2 | resp3
  | presentState | hostCtrl1 | pwrCtrl | clkCtrl | timeoutCtrl | swReset
  | nrmlIntSts | errIntSts | nrmlIntStsEn | errIntStsEn | nrmlIntSigEn | errIntSigEn
  | hostCtrl2 | caps1 | caps2 | admaAddr
deriving DecidableEq, Repr

/-- The registers of the power-control and vendor space, by name (R53, R54). -/
inductive PwrReg where
  | mask | ctl | hcMode
deriving DecidableEq, Repr

/-- The fields of the host record H (R21). -/
inductive HField where
  | baseClkRate | maxBlkLen | busWidth8bit | admaSupport | voltage | ddrSupport | sdr50Support | curClkRate
deriving DecidableEq, Repr

/-- The sixteen status kinds (60_exceptions.md R350). -/
inductive Status where
  | success | invalidArgument | busBusy | clockUnsupported | cmdTimeout | transTimeout
  | hwCmdTimeout | hwCmdCrc | hwCmdEndBit | hwCmdIndex | hwDataTimeout | hwDataCrc | hwDataEndBit
  | hwCurrentLimit | hwAutoCmd12 | hwAdma
deriving DecidableEq, Repr

/-- The values of the phase register (10_state.md R30). -/
inductive Phase where
  | uninit | idle | aborted
  | sc1 | sc2 | sc3 | sc4 | sc5 | sc6 | sc7 | sc8 | sc9 | sc10 | sc11
  | cs1 | cs2 | cs3 | cs4 | cs5 | cs6
  | cf1 | cf2 | cf3
  | bt1 | bt2 | bt3
  | sr1 | sr2
  | in1 | in2 | in3 | in4 | in5 | in6 | in7 | in8 | in9 | in10 | in11
  | bw1 | bw2
  | sm1 | sm2 | sm3
  | dm1 | dm2 | dm3
  | me1
deriving DecidableEq, Repr

/-! ### Events -/

/-- One interface event (00_scope.md R12): a primitive with what went in and what came out. -/
inductive Event where
  | regRead (r : Reg) (v : Word)
  | regWrite (r : Reg) (v : Word)
  | pwrRead (r : PwrReg) (v : Word)
  | pwrWrite (r : PwrReg) (v : Word)
  | memWrite (addr : Word) (n : Nat) (v : Word)
  | alloc (nbytes align : Nat) (answer : Option Word)
  | free (addr : Word)
  | cacheClean (addr : Word) (nbytes : Nat)
  | cacheInvalidate (addr : Word) (nbytes : Nat)
  | delay (us : Nat)
  | irqUnmask (line : Nat)
  | eventArm
  | eventSignal
  | eventWait
deriving DecidableEq, Repr

/-- What the model records (20_memory.md R94): an event of either context, a status delivered on the port, or the output
of a sequence that has one and no status, where it was run alone (30_encoding.md R121: the table of `BUILD_TABLE`, the kind
of `ERR_DECODE`; log 9). -/
inductive Record where
  | caller (e : Event)
  | irq (e : Event)
  | answer (k : Status)
  | table (t : Word)
  | decoded (k : Option Status)
deriving DecidableEq, Repr

/-! ### Memory -/

/-- System memory as one side sees it: address and byte, addresses strictly rising. An unlisted address has no
value (log 17). -/
abbrev Memory := List Host.Cell

/-- The canonical form: addresses strictly rising, all of 32 bits (20_memory.md R83). -/
abbrev Memory.wf (m : Memory) : Prop :=
  m.Pairwise (fun x y => x.1 < y.1) ∧ ∀ c ∈ m, c.1 < 2 ^ 32

/-- A set of addresses: strictly rising, all of 32 bits. -/
abbrev addrsWf (d : List Nat) : Prop := d.Pairwise (· < ·) ∧ ∀ a ∈ d, a < 2 ^ 32

/-! ### Registers -/

/-- A storage register: what it holds, and whether that was written since it last became unspecified (R52). -/
structure Slot (w : Nat) where
  val   : BitVec w
  known : Bool
deriving DecidableEq, Repr

/-- The main register block (R40): storage registers as slots, volatile registers as what the environment last held. -/
structure Ctl where
  arg2         : Slot 32
  blksz        : Slot 16
  blkcnt       : Slot 16
  arg          : Slot 32
  transmode    : Slot 16
  cmd          : Slot 16
  resp         : Quad
  presentState : Word
  hostCtrl1    : Slot 8
  pwrCtrl      : Slot 8
  clkCtrl      : Slot 16
  timeoutCtrl  : Slot 8
  swReset      : Byte
  nrmlIntSts   : Half
  errIntSts    : Half
  nrmlIntStsEn : Slot 16
  errIntStsEn  : Slot 16
  nrmlIntSigEn : Slot 16
  errIntSigEn  : Slot 16
  hostCtrl2    : Slot 16
  caps1        : Word
  caps2        : Word
  admaAddr     : Slot 32
deriving DecidableEq, Repr

/-- The power-control and vendor registers (R53, R54). `mask` is the volatile read side of PWRCTL_MASK, `maskEn` what
`INIT` last wrote there. -/
structure Pwr where
  mask   : Word
  maskEn : Slot 32
  ctl    : Slot 32
  hcMode : Slot 32
deriving DecidableEq, Repr

/-- The power interrupt (R62, 60_exceptions.md R360) and the interrupt context's own temporaries (R28, R380). -/
structure Irq where
  pending : Bool
  masked  : Bool
  m       : Word
  ack     : Word
deriving DecidableEq, Repr

/-- The host capability/state record H (R21). `none` is the spec's "unwritten" (R71). -/
structure HostRec where
  baseClkRate  : Option Word
  maxBlkLen    : Option Word
  busWidth8bit : Option Bool
  admaSupport  : Option Bool
  voltage      : Option Byte
  ddrSupport   : Option Bool
  sdr50Support : Option Bool
  curClkRate   : Option Word
deriving DecidableEq, Repr

/-- The working registers (R28) and the other temporaries of the pseudocode (INVENTORY.md, State). -/
structure Work where
  n        : Word
  rt       : BitVec 2
  flags    : Byte
  tm       : Half
  table    : Option Word
  len      : Word
  cmdTo    : Bool
  transTo  : Bool
  hw       : Option Status
  div      : Word
  clk      : Half
  base     : Word
  achieved : Word
  tmp      : Word
  raw      : Quad
  freq     : Word
  mask     : Byte
  addr     : Word
  width    : Half
  code     : Byte
  count    : Nat
  idx      : Nat
  rem      : Word
  spin     : Nat
  inner    : Option Status
deriving DecidableEq, Repr

def Quad.zero : Quad := ⟨0, 0, 0, 0⟩

/-- Every operation starts with its working registers here and sets the ones it uses, and leaves them here when it ends
(R28, R70, 70_reset_and_hazards.md R402; log 5). -/
def Work.blank : Work where
  n := 0
  rt := 0
  flags := 0
  tm := 0
  table := none
  len := 0
  cmdTo := false
  transTo := false
  hw := none
  div := 0
  clk := 0
  base := 0
  achieved := 0
  tmp := 0
  raw := Quad.zero
  freq := 0
  mask := 0
  addr := 0
  width := 0
  code := 0
  count := 0
  idx := 0
  rem := 0
  spin := 0
  inner := none

/-! ### The outside world -/

/-- A word offered to the engine: its place and its digits (log 9, 12). -/
structure Offer where
  place  : Place
  digits : List Digit
deriving DecidableEq, Repr

/-- What the outside can do between two events of the engine (20_memory.md R95). -/
inductive Move where
  /-- the controller raises the power-control line (R62, 60_exceptions.md R360) -/
  | raiseLine
  /-- the caller offers a word on the request port (R81) -/
  | offer (o : Offer)
  /-- the caller fills the response slots of its descriptor (R27) -/
  | setSlots (q : Quad)
  /-- the device writes a byte of system memory (R95) -/
  | deviceWrite (addr : Word) (b : Byte)
  /-- the caller writes a byte of system memory through its cache (R61) -/
  | cpuWrite (addr : Word) (b : Byte)
  /-- the cache writes a byte back, so that the device sees it (R61) -/
  | evict (addr : Word)
  /-- the cache drops a byte that is not waiting to be written back, so that the CPU sees the device's (R61) -/
  | refill (addr : Word)
  /-- the controller ends the transaction in flight (R63) -/
  | endTransaction
deriving DecidableEq, Repr

/-- Whose turn it is (R95, 60_exceptions.md R366). -/
inductive Turn where
  | caller
  | handler
  | outside (m : Move)
deriving DecidableEq, Repr

/-- The model's own record of the outside world (log 2, 3, 16): the environment's next answers to reads, the allocator's
next answers, the schedule, and the counter the free values are applied to. -/
structure Env where
  reads  : List Word
  allocs : List (Option Word)
  sched  : List Turn
  draws  : Nat
deriving DecidableEq, Repr

/-! ### The state -/

structure State where
  cfg           : Cfg
  st            : Phase
  pos           : Nat
  ret           : Option (Phase × Nat)
  home          : Phase
  cur           : Option Instr
  work          : Work
  h             : HostRec
  slots         : Quad
  ev            : Bool
  ctl           : Ctl
  pwr           : Pwr
  irq           : Irq
  mem           : Memory
  dev           : Memory
  dirty         : List Nat
  live          : List (Word × Nat)
  tableInFlight : Option (Word × Nat)
  inFlight      : Option Half
  blockGone     : Bool
  offer         : Option Offer
  env           : Env
  trace         : List Record
deriving DecidableEq, Repr

/-- An unspecified storage register (R52, R70): the 0 is never read, a read draws (log 4). -/
def Slot.unspecified {w : Nat} : Slot w := ⟨0, false⟩

def Ctl.reset : Ctl where
  arg2         := Slot.unspecified
  blksz        := Slot.unspecified
  blkcnt       := Slot.unspecified
  arg          := Slot.unspecified
  transmode    := Slot.unspecified
  cmd          := Slot.unspecified
  resp         := Quad.zero
  presentState := 0
  hostCtrl1    := Slot.unspecified
  pwrCtrl      := Slot.unspecified
  clkCtrl      := Slot.unspecified
  timeoutCtrl  := Slot.unspecified
  swReset      := 0
  nrmlIntSts   := 0
  errIntSts    := 0
  nrmlIntStsEn := Slot.unspecified
  errIntStsEn  := Slot.unspecified
  nrmlIntSigEn := Slot.unspecified
  errIntSigEn  := Slot.unspecified
  hostCtrl2    := Slot.unspecified
  caps1        := 0
  caps2        := 0
  admaAddr     := Slot.unspecified

/-- Every field of H unwritten (R70, R71). -/
def HostRec.unwritten : HostRec := ⟨none, none, none, none, none, none, none, none⟩

/-- The machine after power-on reset (10_state.md R70, 70_reset_and_hazards.md R400): phase UNINIT, H unwritten, ev 0,
no table in flight, the power line masked and not pending, every controller register unspecified, waiting for a request.
The rest is the model's choice: what a register holds (log 4), `pos`, `ret`, `home`, `work`, `irq.m` and `irq.ack` (log 5),
`live` (log 16), `inFlight` (log 22), `slots` (log 33), `env` and `trace` (log 2, 3, 16, 29). DESIGN CHOICE (log 37), unsafe:
R61 fixes nothing of memory and the cache, and R70 has no row for them; `mem` and `dev` list nothing and `dirty` is empty.
DESIGN CHOICE (log 38), unsafe: `blockGone` is off, so that the main block answers before any MODE_ENABLE. -/
def State.reset : State where
  cfg           := Cfg.default
  st            := .uninit
  pos           := 0
  ret           := none
  home          := .uninit
  cur           := none
  work          := Work.blank
  h             := HostRec.unwritten
  slots         := Quad.zero
  ev            := false
  ctl           := Ctl.reset
  pwr           := ⟨0, Slot.unspecified, Slot.unspecified, Slot.unspecified⟩
  irq           := ⟨false, true, 0, 0⟩
  mem           := []
  dev           := []
  dirty         := []
  live          := []
  tableInFlight := none
  inFlight      := none
  blockGone     := false
  offer         := none
  env           := ⟨[], [], [], 0⟩
  trace         := []

/-! ### Why a step stops -/

/-- A fault: the machine reads what holds no value. -/
inductive Fault where
  /-- An operation reads a field of H that no operation has written (10_state.md R71, 60_exceptions.md R358,
  93_implementation_defined.md U4): raised when the operation is offered, or at the phase that reads. Safe: the spec says
  "a model faults or refuses it, and must not read zero". -/
  | unwrittenField (f : HField)
deriving DecidableEq, Repr

/-- Which limit of the operand domain a request breaks (10_state.md R26, 42_descriptor_builder.md R227). -/
inductive DomainError where
  /-- `cmd.index > 63` (U8) -/
  | indexTooLarge
  /-- a transfer of length 0 (U6) -/
  | lengthZero
  /-- `block_count > 65535` with data (U7) -/
  | blockCountTooLarge
  /-- the buffer range passes 2^32 (U9) -/
  | bufferWraps
  /-- `cmd.buf` not 4-byte aligned, or a read buffer or length no multiple of CACHE_LINE (U9, 20_memory.md R88) -/
  | bufferMisaligned
  /-- a hardware-side word the engine cannot produce (30_encoding.md R127, R137) -/
  | notProduced
deriving DecidableEq, Repr

/-- A refusal: the spec gives the request no behaviour, and the state does not change (60_exceptions.md R358).
Each is safe: the model stops where the hardware's behaviour is not defined. -/
inductive Refusal where
  /-- An instruction with no meaning in this model: raised by no arm of `exec`. -/
  | notModelled (mnemonic : String)
  /-- A reserved operation code (30_encoding.md R123, U3): the meanings of the three reserved codes. -/
  | reservedCode (op : Nat)
  /-- An internal operation code on the request port (R121, R123, U3): the port. -/
  | internalCode
  /-- A word offered by the caller that is no request: an internal sequence the model does not expose (R121, R123, U3), or
  a hardware-side word, which only the engine writes: the port. -/
  | notARequest
  /-- A first digit that is the code of no operation, where Cfg's table of codes leaves one out: the port. -/
  | unknownCode (op : Digit)
  /-- A word that decodes to no instruction: the port. -/
  | undecodable (e : DecodeError)
  /-- A request other than `INIT` and `MODE_ENABLE` in UNINIT (70_reset_and_hazards.md R406, U2): acceptance. -/
  | notAcceptedInUninit
  /-- A second request while an operation runs (20_memory.md R81, U1): the port, and acceptance. -/
  | portBusy
  /-- A request outside the operand domain (10_state.md R26, U6 to U9): acceptance. -/
  | outsideDomain (e : DomainError)
  /-- One of the four configuration operations with CONFIG_OPS off (U12): acceptance. -/
  | configOpsOff
  /-- Any operation after `MODE_ENABLE flag=0` following `INIT` (U16): acceptance. -/
  | mainBlockGone
  /-- A table entry, or a table's address, is wanted and no table was allocated: `ADMA2_ENTRY` alone; inside
  `SEND_COMMAND` and `BUILD_TABLE` no run reaches it. -/
  | noTable
  /-- A phase that is none of the running operation's: no run reaches it. -/
  | phaseMismatch
deriving DecidableEq, Repr

/-- The answer of a step. -/
abbrev Result := Host.Outcome State Fault Refusal

end Sys2Proof.Machine
end

