-- ==== Sys2Proof/Machine/Operands.lean ====
section
/-! DEFINITION. Operand assembly: addresses, register attributes, every word the engine produces, the tag mappings,
the divider search, the capability decode and the operand domain (10_state.md, 20_memory.md R103, 30_encoding.md,
41_clock_controller.md R193, 42_descriptor_builder.md R220). No function here reads or changes the state. -/

namespace Sys2Proof.Machine

/-! ### The register map (10_state.md R40) -/

/-- Byte offset from REG_BASE; a response register `i` is at `OFF_RESP0 + 4 * i` (20_memory.md R103 (b)). -/
def Reg.offset (o : Offsets) : Reg → Nat
  | .arg2 => o.arg2
  | .blksz => o.blksz
  | .blkcnt => o.blkcnt
  | .arg => o.arg
  | .transmode => o.transmode
  | .cmd => o.cmd
  | .resp0 => o.resp0
  | .resp1 => o.resp0 + 4
  | .resp2 => o.resp0 + 8
  | .resp3 => o.resp0 + 12
  | .presentState => o.presentState
  | .hostCtrl1 => o.hostCtrl1
  | .pwrCtrl => o.pwrCtrl
  | .clkCtrl => o.clkCtrl
  | .timeoutCtrl => o.timeoutCtrl
  | .swReset => o.swReset
  | .nrmlIntSts => o.nrmlIntSts
  | .errIntSts => o.errIntSts
  | .nrmlIntStsEn => o.nrmlIntStsEn
  | .errIntStsEn => o.errIntStsEn
  | .nrmlIntSigEn => o.nrmlIntSigEn
  | .errIntSigEn => o.errIntSigEn
  | .hostCtrl2 => o.hostCtrl2
  | .caps1 => o.caps1
  | .caps2 => o.caps2
  | .admaAddr => o.admaAddr

/-- The number that names a register in the free values: its default offset (log 2). -/
def Reg.number (r : Reg) : Nat := r.offset Offsets.default

/-- Access width in bits (R40, 20_memory.md R89). -/
def Reg.width : Reg → Nat
  | .arg2 | .arg | .resp0 | .resp1 | .resp2 | .resp3 | .presentState | .caps1 | .caps2 | .admaAddr => 32
  | .blksz | .blkcnt | .transmode | .cmd | .clkCtrl | .nrmlIntSts | .errIntSts | .nrmlIntStsEn | .errIntStsEn
  | .nrmlIntSigEn | .errIntSigEn | .hostCtrl2 => 16
  | .hostCtrl1 | .pwrCtrl | .timeoutCtrl | .swReset => 8

/-- The bits a register of that width has. -/
def Reg.bits (r : Reg) : Word := BitVec.ofNat 32 (2 ^ r.width - 1)

/-- Class `S`, or `S/V` (R40): the register stores what the engine writes. -/
def Reg.storage : Reg → Bool
  | .arg2 | .blksz | .blkcnt | .arg | .transmode | .cmd | .hostCtrl1 | .pwrCtrl | .clkCtrl | .timeoutCtrl
  | .nrmlIntStsEn | .errIntStsEn | .nrmlIntSigEn | .errIntSigEn | .hostCtrl2 | .admaAddr => true
  | .resp0 | .resp1 | .resp2 | .resp3 | .presentState | .swReset | .nrmlIntSts | .errIntSts | .caps1 | .caps2 => false

/-- The bits the environment drives at every read (R40, R52): of CLK_CTRL the volatile bits R40 names, of a volatile
register all. -/
def Reg.volatileBits (b : Bits) (r : Reg) : Word :=
  if r = .clkCtrl then b.clkVolatile.setWidth 32 else if r.storage then 0 else r.bits

/-- Effective address of a register (20_memory.md R103 (a), (b)). -/
def regAddr (c : Cfg) (r : Reg) : Word := c.regBase + BitVec.ofNat 32 (r.offset c.off)

/-- The address parameter of a power-control register (R53, R54). -/
def pwrAddr (c : Cfg) : PwrReg → Word
  | .mask => c.pwrctlMaskAddr
  | .ctl => c.pwrctlCtlAddr
  | .hcMode => c.hcModeAddr

/-- Effective address of the field at byte `fo` of table entry `i` (R103 (c)); the three offsets stand in `Cfg.entry`. -/
def entryAddr (t : Word) (i fo : Nat) : Word := t + BitVec.ofNat 32 (8 * i + fo)

/-! ### Fields of the registers the engine writes -/

/-- The combined command and data soft reset (R46, 30_encoding.md R135). -/
def resetCmdDat (b : Bits) : Byte := b.resetCmd ||| b.resetDat

/-- A transfer from card to host (30_encoding.md R133). -/
def isRead (k : Codes) (c : Cmd) : Bool := c.dir == k.read

/-- R131: a closed enumeration of the tags, each with its response length (R124); `none` is the invalid arm. -/
def mapResp (b : Bits) (k : Codes) (t : Half) : Option (BitVec 2) :=
  if t = k.tagR1 ∨ t = k.tagR3 ∨ t = k.tagR6 ∨ t = k.tagR7 then some b.resp48
  else if t = k.tagR2 then some b.resp136
  else if t = k.tagR1b then some b.resp48Busy
  else if t = k.tagNone then some b.respNone
  else none

/-! ### Words -/

/-- The flags field (R125). -/
def cmdFlags (b : Bits) (rt : BitVec 2) (dataPresent : Bool) (cmdType : BitVec 2) : Byte :=
  (rt.setWidth 8 <<< b.respSelPos) ||| ((BitVec.ofBool dataPresent).setWidth 8 <<< b.dataPresentPos) |||
    (cmdType.setWidth 8 <<< b.cmdTypePos)

/-- The command word (R126). -/
def cmdWord (b : Bits) (index : Half) (flags : Byte) : Half :=
  ((index &&& b.cmdIdxMask) <<< b.cmdIdxPos) ||| flags.setWidth 16

/-- The transfer-mode word (R127). -/
def transModeWord (b : Bits) (blockCount : Word) (read : Bool) : Half :=
  (if 1 < blockCount.toNat then b.multiBlk ||| b.autoCmd23En ||| b.blkCntEn else 0) |||
    (if read then b.readDir else 0) ||| b.dmaEn

/-- The clock word with the low eight and the high two bits of the divider value N (R128). -/
def clkFields (b : Bits) (lo : Byte) (hi : BitVec 2) : Half :=
  (lo.setWidth 16 <<< b.divLoPos) ||| (hi.setWidth 16 <<< b.divHiPos) ||| b.intClkEn

/-- The clock word for the divider `div` (R128): N = div / 2. -/
def clkWord (b : Bits) (div : Word) : Half :=
  clkFields b (BitVec.ofNat 8 (div.toNat / 2)) (BitVec.ofNat 2 (div.toNat / 2 / 256))

/-- The acknowledgment word with its two success bits (R136). -/
def ackFields (b : Bits) (io bus : Bool) : Word := (if io then b.pwrIoSucc else 0) ||| (if bus then b.pwrBusSucc else 0)

/-- The acknowledgment word (40_power_handshake.md R170, R171): starts at zero. -/
def ackWord (b : Bits) (m : Word) : Word := ackFields b (m &&& b.pwrIoReq != 0) (m &&& b.pwrBusReq != 0)

/-- The attribute of a table entry (R141; 42_descriptor_builder.md R220): valid, data, and for the last one end. -/
def entryAttr (l : EntryLayout) (last : Bool) : Half := l.valid ||| l.data ||| (if last then l.endOfList else 0)

/-- The width code of a bus-width tag (R134); `none` where the tag is unrecognised. -/
def busWidthCode (c : Cfg) (w : Half) : Option Byte :=
  if w = c.codes.w1 then some 0x00
  else if w = c.codes.w4 then some c.bits.width4
  else if w = c.codes.w8 then some c.bits.width8
  else none

/-! ### Hardware-side words from the fields of their formats (the opcode table) -/

def wordCmdValue (b : Bits) (i : BitVec 6) (t : BitVec 2) (p : Bool) (r : BitVec 2) : Half :=
  cmdWord b (i.setWidth 16) (cmdFlags b r p t)

def wordTransmodeValue (b : Bits) (m d a c : Bool) : Half :=
  (if m then b.multiBlk else 0) ||| (if d then b.readDir else 0) ||| (if a then b.autoCmd23En else 0) |||
    (if c then b.blkCntEn else 0) ||| b.dmaEn

def wordSwResetValue (b : Bits) (d c a : Bool) : Byte :=
  (if d then b.resetDat else 0) ||| (if c then b.resetCmd else 0) ||| (if a then b.resetAll else 0)

def wordStsClearValue (b : Bits) (t c : Bool) : Half :=
  (if t then b.transComplete else 0) ||| (if c then b.cmdComplete else 0)

/-! ### The divider search (41_clock_controller.md R193) -/

/-- Try `d`, `d + 2`, ... for `k` tries: the first with `b / d ≤ freq`. -/
def divSearch (b freq : Nat) : Nat → Nat → Option Nat
  | 0, _ => none
  | k + 1, d => if b / d ≤ freq then some d else divSearch b freq k (d + 2)

/-- The search over 2, 4, ..., maxDiv. -/
def findDiv (b freq maxDiv : Nat) : Option Nat := divSearch b freq (maxDiv / 2) 2

/-! ### The descriptor table (42_descriptor_builder.md R220 to R222) -/

/-- The number of entries for `len` bytes. -/
def entryCount (maxLine len : Nat) : Nat := if len ≤ maxLine then 1 else (len + maxLine - 1) / maxLine

/-- The logical length of entry `i` of `count`, `rem` bytes still to cover. -/
def entryLen (maxLine : Word) (count i : Nat) (rem : Word) : Word := if i + 1 < count then maxLine else rem

/-! ### The capability decode (30_encoding.md R154) -/

def capBaseClk (b : Bits) (c1 : Word) : Word := ((c1 &&& b.clkRateMask) >>> b.clkRatePos) * 1000000

def capMaxBlkLen (b : Bits) (c1 : Word) : Word := (c1 &&& b.blkLenMask) >>> b.blkLenPos

def capVoltage (b : Bits) (c1 : Word) : Byte :=
  if c1 &&& b.cap33 ≠ 0 then b.volt33 else if c1 &&& b.cap30 ≠ 0 then b.volt30
  else if c1 &&& b.cap18 ≠ 0 then b.volt18 else 0

/-- The record `INIT` writes from the two capability words: seven fields, the current rate unwritten
(45_init_and_config_ops.md R312). -/
def capRecord (b : Bits) (c1 c2 : Word) : HostRec where
  baseClkRate  := some (capBaseClk b c1)
  maxBlkLen    := some (capMaxBlkLen b c1)
  busWidth8bit := some (c1 &&& b.cap8bit != 0)
  admaSupport  := some (c1 &&& b.capAdma != 0)
  voltage      := some (capVoltage b c1)
  ddrSupport   := some (c2 &&& b.capDdr != 0)
  sdr50Support := some (c2 &&& b.capSdr50 != 0)
  curClkRate   := none

/-! ### Response reassembly (44_response_and_errors.md R291) -/

def reassemble (raw : Quad) : Quad where
  w0 := raw.w0 <<< 8
  w1 := (raw.w1 <<< 8) ||| (raw.w0 >>> 24)
  w2 := (raw.w2 <<< 8) ||| (raw.w1 >>> 24)
  w3 := (raw.w3 <<< 8) ||| (raw.w2 >>> 24)

/-! ### The operand domain (10_state.md R26, 20_memory.md R88, 42_descriptor_builder.md R227) -/

/-- The first limit a `SEND_COMMAND` breaks, if any. -/
def cmdDomain (cfg : Cfg) (c : Cmd) : Option DomainError :=
  let len := c.blockCount.toNat * cfg.blockSize.toNat
  if 63 < c.index.toNat then some .indexTooLarge
  else if c.dataPresent = false then none
  else if c.blockCount.toNat = 0 then some .lengthZero
  else if 65535 < c.blockCount.toNat then some .blockCountTooLarge
  else if 2 ^ 32 < c.buf.toNat + len then some .bufferWraps
  else if c.buf.toNat % 4 ≠ 0 then some .bufferMisaligned
  else if isRead cfg.codes c = true ∧ (c.buf.toNat % cfg.cacheLine ≠ 0 ∨ len % cfg.cacheLine ≠ 0) then
    some .bufferMisaligned
  else none

/-- The first limit an instruction's operands break, if any. -/
def domainError (cfg : Cfg) : Instr → Option DomainError
  | .init => none
  | .sendCommand c => cmdDomain cfg c
  | .clkSupply _ => none
  | .setBusWidth _ => none
  | .setSdrMode => none
  | .setDdrMode => none
  | .modeEnable _ => none
  | .reserved7 => none
  | .reserved14 => none
  | .reserved15 => none
  | .changeFrequency _ => none
  | .buildTable addr len =>
    if len.toNat = 0 then some .lengthZero
    else if 2 ^ 32 < addr.toNat + len.toNat then some .bufferWraps
    else none
  | .softReset _ => none
  | .respExtract _ => none
  | .errDecode => none
  | .pwrIrq => none
  | .wordCmd _ _ _ _ => none
  | .wordTransmode m _ a c => if m = a ∧ a = c then none else some .notProduced
  | .wordClk _ _ => none
  | .wordSwReset _ _ _ => none
  | .wordPwrAck _ _ => none
  | .wordStsClear t c => if t = c then some .notProduced else none
  | .adma2Entry _ _ _ => none

/-- The requests UNINIT accepts (70_reset_and_hazards.md R406). -/
def acceptedInUninit : Instr → Bool
  | .init | .modeEnable _ => true
  | .sendCommand _ | .clkSupply _ | .setBusWidth _ | .setSdrMode | .setDdrMode | .reserved7 | .reserved14 | .reserved15
  | .changeFrequency _ | .buildTable _ _ | .softReset _ | .respExtract _ | .errDecode | .pwrIrq | .wordCmd _ _ _ _
  | .wordTransmode _ _ _ _ | .wordClk _ _ | .wordSwReset _ _ _ | .wordPwrAck _ _ | .wordStsClear _ _
  | .adma2Entry _ _ _ => false

/-- Operations 3 to 6, refused with CONFIG_OPS off (00_scope.md R8, U12). -/
def isConfigOp : Instr → Bool
  | .setBusWidth _ | .setSdrMode | .setDdrMode | .modeEnable _ => true
  | .init | .sendCommand _ | .clkSupply _ | .reserved7 | .reserved14 | .reserved15
  | .changeFrequency _ | .buildTable _ _ | .softReset _ | .respExtract _ | .errDecode | .pwrIrq | .wordCmd _ _ _ _
  | .wordTransmode _ _ _ _ | .wordClk _ _ | .wordSwReset _ _ _ | .wordPwrAck _ _ | .wordStsClear _ _
  | .adma2Entry _ _ _ => false

/-- The request port's operations (30_encoding.md R120): the seven public ones. -/
def isPublic : Instr → Bool
  | .init | .sendCommand _ | .clkSupply _ | .setBusWidth _ | .setSdrMode | .setDdrMode | .modeEnable _ => true
  | .reserved7 | .reserved14 | .reserved15 | .changeFrequency _ | .buildTable _ _ | .softReset _ | .respExtract _
  | .errDecode | .pwrIrq | .wordCmd _ _ _ _ | .wordTransmode _ _ _ _ | .wordClk _ _ | .wordSwReset _ _ _
  | .wordPwrAck _ _ | .wordStsClear _ _ | .adma2Entry _ _ _ => false

/-- What a caller may ask for: a public operation, or `CHANGE_FREQUENCY`, which R121 lets a model expose (log 9). -/
def isExposed : Instr → Bool
  | .init | .sendCommand _ | .clkSupply _ | .setBusWidth _ | .setSdrMode | .setDdrMode | .modeEnable _
  | .changeFrequency _ => true
  | .reserved7 | .reserved14 | .reserved15 | .buildTable _ _ | .softReset _ | .respExtract _ | .errDecode | .pwrIrq
  | .wordCmd _ _ _ _ | .wordTransmode _ _ _ _ | .wordClk _ _ | .wordSwReset _ _ _ | .wordPwrAck _ _
  | .wordStsClear _ _ | .adma2Entry _ _ _ => false

/-- Operation codes 8 to 13: not accepted from the request port (30_encoding.md R121, R123). -/
def isInternal (i : Instr) : Bool := i.place == .sequence

end Sys2Proof.Machine
end

