-- ==== Sys2Proof/Machine/Flags.lean ====
section
/-! DEFINITION. Status computations: the bits the engine tests, the error decoder, the final status and the numeric
codes (10_state.md R41, R45, R47, R48; 43_command_engine.md R270; 44_response_and_errors.md R295; 60_exceptions.md
R351). The engine has no condition codes (10_state.md R32). -/

namespace Sys2Proof.Machine

/-- R41: both activity bits read 0. -/
def linesIdle (b : Bits) (p : Word) : Bool := p &&& b.stateCmdDat == 0

/-- R47: the command-complete bit. -/
def cmdComplete (b : Bits) (s : Word) : Bool := s &&& b.cmdComplete.setWidth 32 != 0

/-- R47: the transfer-complete bit. -/
def transComplete (b : Bits) (s : Word) : Bool := s &&& b.transComplete.setWidth 32 != 0

/-- R47: the error-interrupt bit. -/
def errInt (b : Bits) (s : Word) : Bool := s &&& b.errInt.setWidth 32 != 0

/-- R45: the clock-stable bit. -/
def clkStable (b : Bits) (v : Word) : Bool := v &&& b.clkStable.setWidth 32 != 0

/-- R295: the first match in the source's priority order. -/
def errKind (b : Bits) (v : Word) : Option Status :=
  let e := v.setWidth 16
  if e &&& b.errCmdTimeout ≠ 0 then some .hwCmdTimeout
  else if e &&& b.errCmdCrc ≠ 0 then some .hwCmdCrc
  else if e &&& b.errCmdEndBit ≠ 0 then some .hwCmdEndBit
  else if e &&& b.errCmdIndex ≠ 0 then some .hwCmdIndex
  else if e &&& b.errDataTimeout ≠ 0 then some .hwDataTimeout
  else if e &&& b.errDataCrc ≠ 0 then some .hwDataCrc
  else if e &&& b.errDataEndBit ≠ 0 then some .hwDataEndBit
  else if e &&& b.errCurrent ≠ 0 then some .hwCurrentLimit
  else if e &&& b.errAutoCmd12 ≠ 0 then some .hwAutoCmd12
  else if e &&& b.errAdma ≠ 0 then some .hwAdma
  else none

/-- R270: a decoded kind, then the poll that ran out, then SUCCESS. -/
def finalStatus (hw : Option Status) (cmdTo transTo : Bool) : Status :=
  match hw with
  | some k => k
  | none => if cmdTo then .cmdTimeout else if transTo then .transTimeout else .success

/-- The row of a status in the table of R351. -/
def Status.row : Status → Nat
  | .success => 0
  | .invalidArgument => 1
  | .busBusy => 2
  | .clockUnsupported => 3
  | .cmdTimeout => 4
  | .transTimeout => 5
  | .hwCmdTimeout => 6
  | .hwCmdCrc => 7
  | .hwCmdEndBit => 8
  | .hwCmdIndex => 9
  | .hwDataTimeout => 10
  | .hwDataCrc => 11
  | .hwDataEndBit => 12
  | .hwCurrentLimit => 13
  | .hwAutoCmd12 => 14
  | .hwAdma => 15

/-- R351: the numeric code of a status on the request port. -/
def Status.code (k : Codes) (s : Status) : Option Nat := k.status[s.row]?

end Sys2Proof.Machine
end

