-- ==== Sys2Proof/Machine/Ops.lean ====
section
/-! DEFINITION. The operations every meaning is built from: memory, the register ports, the primitives of 00_scope.md
R12, acceptance and return of operations (10_state.md R31, 70_reset_and_hazards.md R406), `raise FatalAbort`
(60_exceptions.md R356) and the entry to the interrupt handler with its return (R371, R375). Each primitive is one
interface event, recorded in the trace. -/

namespace Sys2Proof.Machine

/-! ### Memory (20_memory.md R83, R84) -/

/-- The byte at an address; `none` where nothing is listed (log 17). -/
def Memory.read : Memory → Nat → Option Byte
  | [], _ => none
  | (k, b) :: m, a => if k = a then some b else Memory.read m a

/-- Store one byte, keeping the addresses strictly rising. -/
def Memory.write : Memory → Nat → Byte → Memory
  | [], a, b => [(a, b)]
  | (k, c) :: m, a, b =>
    if a < k then (a, b) :: (k, c) :: m
    else if a = k then (a, b) :: m
    else (k, c) :: Memory.write m a b

/-- Forget one byte. -/
def Memory.erase (m : Memory) (a : Nat) : Memory := m.filter (fun c => c.1 ≠ a)

/-- Store the `n` low bytes of `v` from `a` up, least significant first (R84). -/
def Memory.writeLE : Memory → Word → Nat → Word → Memory
  | m, _, 0, _ => m
  | m, a, n + 1, v => Memory.writeLE (m.write a.toNat (v.setWidth 8)) (a + 1) n (v >>> 8)

/-- Store `n` zero bytes from `a` up. -/
def Memory.fillZero : Memory → Word → Nat → Memory
  | m, _, 0 => m
  | m, a, n + 1 => Memory.fillZero (m.write a.toNat 0) (a + 1) n

/-- `dst` with the bytes at `lo .. lo + n - 1` taken from `src`: a cache operation over a range (R96, R97). -/
def Memory.splice (dst src : Memory) (lo n : Nat) : Memory :=
  dst.filter (fun c => c.1 < lo) ++ src.filter (fun c => lo ≤ c.1 ∧ c.1 < lo + n) ++ dst.filter (fun c => lo + n ≤ c.1)

/-- `dst` with the byte at `a` taken from `src`. -/
def Memory.copyByte (dst src : Memory) (a : Nat) : Memory :=
  match src.read a with
  | some b => dst.write a b
  | none => dst.erase a

/-! ### The addresses the cache has still to write back (10_state.md R61; log 17) -/

/-- Add one address, keeping the set strictly rising. -/
def addrAdd : List Nat → Nat → List Nat
  | [], a => [a]
  | k :: d, a => if a < k then a :: k :: d else if a = k then k :: d else k :: addrAdd d a

/-- Add `n` addresses from `a` up. -/
def addrAddRange : List Nat → Word → Nat → List Nat
  | d, _, 0 => d
  | d, a, n + 1 => addrAddRange (addrAdd d a.toNat) (a + 1) n

/-- Take away the addresses `lo .. lo + n - 1`. -/
def addrDrop (d : List Nat) (lo n : Nat) : List Nat := d.filter (fun a => a < lo ∨ lo + n ≤ a)

/-! ### The register file (10_state.md R40, R52) -/

/-- What a register holds, widened with zeros. -/
def Ctl.get (c : Ctl) : Reg → Word
  | .arg2 => c.arg2.val
  | .blksz => c.blksz.val.setWidth 32
  | .blkcnt => c.blkcnt.val.setWidth 32
  | .arg => c.arg.val
  | .transmode => c.transmode.val.setWidth 32
  | .cmd => c.cmd.val.setWidth 32
  | .resp0 => c.resp.w0
  | .resp1 => c.resp.w1
  | .resp2 => c.resp.w2
  | .resp3 => c.resp.w3
  | .presentState => c.presentState
  | .hostCtrl1 => c.hostCtrl1.val.setWidth 32
  | .pwrCtrl => c.pwrCtrl.val.setWidth 32
  | .clkCtrl => c.clkCtrl.val.setWidth 32
  | .timeoutCtrl => c.timeoutCtrl.val.setWidth 32
  | .swReset => c.swReset.setWidth 32
  | .nrmlIntSts => c.nrmlIntSts.setWidth 32
  | .errIntSts => c.errIntSts.setWidth 32
  | .nrmlIntStsEn => c.nrmlIntStsEn.val.setWidth 32
  | .errIntStsEn => c.errIntStsEn.val.setWidth 32
  | .nrmlIntSigEn => c.nrmlIntSigEn.val.setWidth 32
  | .errIntSigEn => c.errIntSigEn.val.setWidth 32
  | .hostCtrl2 => c.hostCtrl2.val.setWidth 32
  | .caps1 => c.caps1
  | .caps2 => c.caps2
  | .admaAddr => c.admaAddr.val

/-- A storage register was written since it last became unspecified; a volatile register always has what the
environment last held. -/
def Ctl.known (c : Ctl) : Reg → Bool
  | .arg2 => c.arg2.known
  | .blksz => c.blksz.known
  | .blkcnt => c.blkcnt.known
  | .arg => c.arg.known
  | .transmode => c.transmode.known
  | .cmd => c.cmd.known
  | .hostCtrl1 => c.hostCtrl1.known
  | .pwrCtrl => c.pwrCtrl.known
  | .clkCtrl => c.clkCtrl.known
  | .timeoutCtrl => c.timeoutCtrl.known
  | .nrmlIntStsEn => c.nrmlIntStsEn.known
  | .errIntStsEn => c.errIntStsEn.known
  | .nrmlIntSigEn => c.nrmlIntSigEn.known
  | .errIntSigEn => c.errIntSigEn.known
  | .hostCtrl2 => c.hostCtrl2.known
  | .admaAddr => c.admaAddr.known
  | .resp0 | .resp1 | .resp2 | .resp3 | .presentState | .swReset | .nrmlIntSts | .errIntSts | .caps1 | .caps2 => true

/-- Set what a register holds, cut to its width. -/
def Ctl.put (c : Ctl) (r : Reg) (v : Word) : Ctl :=
  match r with
  | .arg2 => { c with arg2 := ⟨v, true⟩ }
  | .blksz => { c with blksz := ⟨v.setWidth 16, true⟩ }
  | .blkcnt => { c with blkcnt := ⟨v.setWidth 16, true⟩ }
  | .arg => { c with arg := ⟨v, true⟩ }
  | .transmode => { c with transmode := ⟨v.setWidth 16, true⟩ }
  | .cmd => { c with cmd := ⟨v.setWidth 16, true⟩ }
  | .resp0 => { c with resp := { c.resp with w0 := v } }
  | .resp1 => { c with resp := { c.resp with w1 := v } }
  | .resp2 => { c with resp := { c.resp with w2 := v } }
  | .resp3 => { c with resp := { c.resp with w3 := v } }
  | .presentState => { c with presentState := v }
  | .hostCtrl1 => { c with hostCtrl1 := ⟨v.setWidth 8, true⟩ }
  | .pwrCtrl => { c with pwrCtrl := ⟨v.setWidth 8, true⟩ }
  | .clkCtrl => { c with clkCtrl := ⟨v.setWidth 16, true⟩ }
  | .timeoutCtrl => { c with timeoutCtrl := ⟨v.setWidth 8, true⟩ }
  | .swReset => { c with swReset := v.setWidth 8 }
  | .nrmlIntSts => { c with nrmlIntSts := v.setWidth 16 }
  | .errIntSts => { c with errIntSts := v.setWidth 16 }
  | .nrmlIntStsEn => { c with nrmlIntStsEn := ⟨v.setWidth 16, true⟩ }
  | .errIntStsEn => { c with errIntStsEn := ⟨v.setWidth 16, true⟩ }
  | .nrmlIntSigEn => { c with nrmlIntSigEn := ⟨v.setWidth 16, true⟩ }
  | .errIntSigEn => { c with errIntSigEn := ⟨v.setWidth 16, true⟩ }
  | .hostCtrl2 => { c with hostCtrl2 := ⟨v.setWidth 16, true⟩ }
  | .caps1 => { c with caps1 := v }
  | .caps2 => { c with caps2 := v }
  | .admaAddr => { c with admaAddr := ⟨v, true⟩ }

/-- Every storage register becomes unspecified: a RESET_ALL (R52, 70_reset_and_hazards.md R401; log 26). -/
def Ctl.forget (c : Ctl) : Ctl :=
  { c with
    arg2 := { c.arg2 with known := false }
    blksz := { c.blksz with known := false }
    blkcnt := { c.blkcnt with known := false }
    arg := { c.arg with known := false }
    transmode := { c.transmode with known := false }
    cmd := { c.cmd with known := false }
    hostCtrl1 := { c.hostCtrl1 with known := false }
    pwrCtrl := { c.pwrCtrl with known := false }
    clkCtrl := { c.clkCtrl with known := false }
    timeoutCtrl := { c.timeoutCtrl with known := false }
    nrmlIntStsEn := { c.nrmlIntStsEn with known := false }
    errIntStsEn := { c.errIntStsEn with known := false }
    nrmlIntSigEn := { c.nrmlIntSigEn with known := false }
    errIntSigEn := { c.errIntSigEn with known := false }
    hostCtrl2 := { c.hostCtrl2 with known := false }
    admaAddr := { c.admaAddr with known := false } }

/-- The register block after the engine writes `v` to `r` (20_memory.md R90): a write to a status register clears the
bits written 1, all but ERR_INT (R47); a write to SW_RESET starts the resets written 1 (R46), RESET_ALL among them; a
write to CLK_CTRL leaves the bits the environment drives (41_clock_controller.md R196); a register the engine can only
read keeps what it holds. -/
def Ctl.written (b : Bits) (c : Ctl) (r : Reg) (v : Word) : Ctl :=
  match r with
  | .nrmlIntSts => c.put .nrmlIntSts (c.get .nrmlIntSts &&& ~~~(v &&& ~~~(b.errInt.setWidth 32)))
  | .errIntSts => c.put .errIntSts (c.get .errIntSts &&& ~~~v)
  | .swReset => if v &&& b.resetAll.setWidth 32 ≠ 0 then (c.put .swReset v).forget else c.put .swReset v
  | .clkCtrl =>
    c.put .clkCtrl ((v &&& ~~~(b.clkVolatile.setWidth 32)) ||| (c.get .clkCtrl &&& b.clkVolatile.setWidth 32))
  | .presentState | .resp0 | .resp1 | .resp2 | .resp3 | .caps1 | .caps2 => c
  | .arg2 | .blksz | .blkcnt | .arg | .transmode | .cmd | .hostCtrl1 | .pwrCtrl | .timeoutCtrl
  | .nrmlIntStsEn | .errIntStsEn | .nrmlIntSigEn | .errIntSigEn | .hostCtrl2 | .admaAddr => c.put r v

/-- The byte at an offset of the main block, as its registers lay it out little-endian (R82, R84); `none` at an offset
the engine never touches (20_memory.md R92). -/
def Ctl.byteAt (o : Offsets) (c : Ctl) (off : Nat) : Option Byte :=
  let owns := fun r : Reg => r.offset o ≤ off ∧ off < r.offset o + r.width / 8
  match [Reg.arg2, .blksz, .blkcnt, .arg, .transmode, .cmd, .resp0, .resp1, .resp2, .resp3, .presentState, .hostCtrl1,
      .pwrCtrl, .clkCtrl, .timeoutCtrl, .swReset, .nrmlIntSts, .errIntSts, .nrmlIntStsEn, .errIntStsEn, .nrmlIntSigEn,
      .errIntSigEn, .hostCtrl2, .caps1, .caps2, .admaAddr].find? (fun r => decide (owns r)) with
  | some r => some ((c.get r >>> (8 * (off - r.offset o))).setWidth 8)
  | none => none

/-! ### Small changes of the state -/

def emit (e : Event) (s : State) : State := { s with trace := .caller e :: s.trace }

def emitIrq (e : Event) (s : State) : State := { s with trace := .irq e :: s.trace }

/-- Go on at phase `p`, position `q` (10_state.md R31). -/
def goTo (p : Phase) (q : Nat) (s : State) : State := { s with st := p, pos := q }

/-! ### Draws from the environment (10_state.md R52, U10) -/

/-- The value the environment gives the next read of the register with this number: the next answer, or a free value. -/
def drawValue (number : Nat) (s : State) : Word :=
  match s.env.reads with
  | v :: _ => v
  | [] => Config.freeRead number s.env.draws

/-- The state after one draw. -/
def afterDraw (s : State) : State :=
  { s with env := { s.env with reads := s.env.reads.tail, draws := s.env.draws + 1 } }

/-! ### The register port -/

/-- The bits of a register that the next read draws: its volatile bits, or all of them while its content is
unspecified (R52). -/
def drawnBits (r : Reg) (s : State) : Word := if s.ctl.known r then r.volatileBits s.cfg.bits else r.bits

/-- What `RegRead_n` of `r` answers in this state. -/
def readValue (r : Reg) (s : State) : Word :=
  (s.ctl.get r &&& ~~~(drawnBits r s)) ||| (drawValue r.number s &&& drawnBits r s)

/-- `RegRead_n(r)`: the state after it. The register holds what was read; a read has no other effect (R90). -/
def regRead (r : Reg) (s : State) : State :=
  emit (.regRead r (readValue r s))
    { (if drawnBits r s = 0 then s else afterDraw s) with ctl := s.ctl.put r (readValue r s) }

/-- `RegWrite_n(r, v)`. A write to CMD starts a transaction (R63, R90). -/
def regWrite (r : Reg) (v : Word) (s : State) : State :=
  emit (.regWrite r (v &&& r.bits))
    { s with
      ctl := s.ctl.written s.cfg.bits r (v &&& r.bits)
      inFlight := if r = .cmd then some (v.setWidth 16) else s.inFlight }

/-! ### The power-control port -/

def Pwr.written (p : Pwr) (r : PwrReg) (v : Word) : Pwr :=
  match r with
  | .mask => { p with maskEn := ⟨v, true⟩ }
  | .ctl => { p with ctl := ⟨v, true⟩ }
  | .hcMode => { p with hcMode := ⟨v, true⟩ }

/-- `PwrWrite_32(r, v)` of the caller context. -/
def pwrWrite (r : PwrReg) (v : Word) (s : State) : State :=
  emit (.pwrWrite r v) { s with pwr := s.pwr.written r v }

/-- The number of PWRCTL_MASK for draws, above every register's. -/
def pwrMaskNumber : Nat := 0x100

/-! ### System memory, the cache and the allocator -/

/-- `MemWrite(addr, n, v)` (R84): the CPU side sees it, and the cache has it to write back. -/
def memWrite (a : Word) (n : Nat) (v : Word) (s : State) : State :=
  emit (.memWrite a n v) { s with mem := s.mem.writeLE a n v, dirty := addrAddRange s.dirty a n }

/-- `CacheClean(addr, n)`: the device side sees what the CPU side holds there (20_memory.md R96). -/
def cacheClean (a : Word) (n : Nat) (s : State) : State :=
  emit (.cacheClean a n) { s with dev := s.dev.splice s.mem a.toNat n, dirty := addrDrop s.dirty a.toNat n }

/-- `CacheInvalidate(addr, n)`: the CPU side sees what the device side holds there (R97). -/
def cacheInvalidate (a : Word) (n : Nat) (s : State) : State :=
  emit (.cacheInvalidate a n) { s with mem := s.mem.splice s.dev a.toNat n, dirty := addrDrop s.dirty a.toNat n }

/-- Two byte ranges share no byte. -/
def apart (a n b m : Nat) : Bool := decide (a + n ≤ b) || decide (b + m ≤ a)

/-- The allocator's contract (42_descriptor_builder.md R224): aligned, inside 2^32, apart from every live block and
from the data buffer. -/
def allocOk (t : Word) (nbytes : Nat) (buf : Word) (len : Nat) (s : State) : Bool :=
  decide (t.toNat % s.cfg.descAlign = 0) && decide (t.toNat + nbytes ≤ 2 ^ 32) &&
    apart t.toNat nbytes buf.toNat len && s.live.all (fun b => apart t.toNat nbytes b.1.toNat b.2)

/-- The allocator's answer: the next one given, or a free value; an address that breaks the contract is no answer an
allocator gives, and counts as `fail` (log 16). -/
def allocAnswer (nbytes : Nat) (buf : Word) (len : Nat) (s : State) : Option Word :=
  match (match s.env.allocs with | a :: _ => a | [] => Config.freeAlloc s.env.draws) with
  | none => none
  | some t => if allocOk t nbytes buf len s then some t else none

/-- `Alloc(nbytes, DESC_ALIGN)`: the state after it; the block is zero-filled where `zero` is set (R220, R223). -/
def alloc (nbytes : Nat) (buf : Word) (len : Nat) (zero : Bool) (s : State) : State :=
  emit (.alloc nbytes s.cfg.descAlign (allocAnswer nbytes buf len s))
    { s with
      env := { s.env with allocs := s.env.allocs.tail, draws := s.env.draws + 1 }
      live :=
        match allocAnswer nbytes buf len s with
        | some t => (t, nbytes) :: s.live
        | none => s.live
      mem :=
        match allocAnswer nbytes buf len s with
        | some t => if zero then s.mem.fillZero t nbytes else s.mem
        | none => s.mem
      dirty :=
        match allocAnswer nbytes buf len s with
        | some t => if zero then addrAddRange s.dirty t nbytes else s.dirty
        | none => s.dirty }

/-- `Free(addr)` (R226): afterwards the engine holds no table. -/
def free (t : Word) (s : State) : State :=
  emit (.free t)
    { s with
      live := s.live.filter (fun b => b.1 ≠ t)
      tableInFlight := none
      work := { s.work with table := none } }

/-! ### Delays, the interrupt controller and the event -/

/-- `Delay(us)` (70_reset_and_hazards.md R430; log 24). -/
def delay (us : Nat) (s : State) : State := emit (.delay us) s

/-- `IrqUnmask(PWR_IRQ_LINE)` (60_exceptions.md R360). -/
def irqUnmask (s : State) : State :=
  emit (.irqUnmask s.cfg.pwrIrqLine) { s with irq := { s.irq with masked := false } }

/-- `EventArm()` (40_power_handshake.md R172). -/
def eventArm (s : State) : State := emit .eventArm { s with ev := false }

/-- `EventWait()` passing (R174): it consumes the signal. -/
def eventPass (s : State) : State := emit .eventWait { s with ev := false }

/-! ### The power interrupt: entry, handler, return -/

/-- The interrupt controller delivers the line (R371, R176). -/
def irqDeliverable (s : State) : Bool := s.irq.pending && !s.irq.masked

/-- Entry to the handler and the handler itself (60_exceptions.md R371, 40_power_handshake.md R170): nothing of the
caller context is saved or changed; the handler reads PWRCTL_MASK, acknowledges, which ends the pending interrupt
(R62), and signals the event. Its three events are contiguous, so it is one step (R376). Return restores nothing
(R375), and no temporary of the handler survives it (70_reset_and_hazards.md R402; log 30). -/
def takePwrIrq (s : State) : State :=
  let m := drawValue pwrMaskNumber s
  emitIrq .eventSignal <|
    emitIrq (.pwrWrite .ctl (ackWord s.cfg.bits m)) <|
      emitIrq (.pwrRead .mask m)
        { afterDraw s with
          pwr := { s.pwr with mask := m, ctl := ⟨ackWord s.cfg.bits m, true⟩ }
          irq := { s.irq with pending := false, m := 0, ack := 0 }
          ev := true }

/-! ### Acceptance, return, abort -/

/-- What refuses a request that an idle engine is offered, if anything (70_reset_and_hazards.md R406, U2, U12, U16,
10_state.md R26). DESIGN CHOICE (log 36), safe: where several grounds apply the spec names no order (60_exceptions.md
R358), and the name given is that of the first in the order tested here: main block gone, UNINIT, another phase,
CONFIG_OPS off, operand domain. -/
def admission (i : Instr) (s : State) : Option Refusal :=
  if s.blockGone then some .mainBlockGone
  else if s.st = .uninit ∧ acceptedInUninit i = false then some .notAcceptedInUninit
  else if s.st ≠ .uninit ∧ s.st ≠ .idle then some .portBusy
  else if s.cfg.configOps = false ∧ isConfigOp i = true then some .configOpsOff
  else (domainError s.cfg i).map .outsideDomain

/-- Accept `i`: latch it, and start at phase `p` with working registers `w`; a return goes to `home` (10_state.md R25,
R31). -/
def accept (i : Instr) (p home : Phase) (w : Work) (s : State) : Result :=
  .next { s with cur := some i, st := p, pos := 0, ret := none, home := home, work := w }

/-- Run `i`: with no operation running it is accepted or refused; while it runs, its next event is performed; another
operation is not accepted (R81, U1), whatever else speaks against it (log 36). ABORTED has no step (R406; log 19). -/
def runOp (i : Instr) (start next : State → Result) (s : State) : Result :=
  match s.cur with
  | some j => if j = i then next s else .refused .portBusy
  | none =>
    if s.st = .aborted then .next s
    else
      match admission i s with
      | some r => .refused r
      | none => start s

/-- Call a nested sequence: go to its first phase and come back to phase `p`, position `q` (10_state.md R31). -/
def call (first : Phase) (p : Phase) (q : Nat) (s : State) : State :=
  { s with st := first, pos := 0, ret := some (p, q) }

/-- `return k` (00_scope.md R11): a nested sequence hands `k` to its caller (60_exceptions.md R377); an operation
delivers it on the port, its working registers do not survive (R28), and the engine is idle again. -/
def finish (k : Status) (s : State) : State :=
  match s.ret with
  | some (p, q) => { s with st := p, pos := q, ret := none, work := { s.work with inner := some k } }
  | none =>
    { s with
      st := s.home, pos := 0, cur := none, work := Work.blank
      trace := .answer k :: s.trace }

/-- The end of a sequence that has no status (60_exceptions.md R377): a nested one comes back to its caller with its
results in the working registers; run alone (log 9) it leaves the engine idle, and no working register survives. -/
def leave (s : State) : State :=
  match s.ret with
  | some (p, q) => { s with st := p, pos := q, ret := none }
  | none => { s with st := s.home, pos := 0, cur := none, work := Work.blank }

/-- `leave` of a sequence with an output (30_encoding.md R121): run alone it hands the output over as the record `r`
(log 9). -/
def handOver (r : Record) (s : State) : State :=
  leave (if s.ret = none then { s with trace := r :: s.trace } else s)

/-- `raise FatalAbort` (60_exceptions.md R356, R372): ABORTED for good, no status. -/
def fatalAbort (s : State) : State := { s with st := .aborted, pos := 0, ret := none, cur := none }

/-- A register spin has made SPIN_BOUND reads (70_reset_and_hazards.md R413). -/
def spinExhausted (s : State) : Bool :=
  match s.cfg.spinBound with
  | none => false
  | some b => decide (b ≤ s.work.spin)

end Sys2Proof.Machine
end

