-- ==== Sys2Proof/Machine/Clock.lean ====
section
/-! DEFINITION. The clock divider controller: `CLK_SUPPLY` and `CHANGE_FREQUENCY` (41_clock_controller.md). -/

namespace Sys2Proof.Machine

/-- CS.1 (R190, R191): the range check. The read of an unwritten H.base_clk_rate has no value (10_state.md R71, U4); no run
comes here with it unwritten (log 32). -/
def csRange (s : State) : Result :=
  match s.h.baseClkRate with
  | none => .fault (.unwrittenField .baseClkRate)
  | some b =>
    .next
      (if b.toNat < s.work.freq.toNat then finish .clockUnsupported s
       else goTo .cs2 0 { s with work := { s.work with base := b } })

/-- CS.2 (R192): divider 0 exactly where the target is the base rate. -/
def csPassThrough (s : State) : State :=
  goTo .cs3 0
    (if s.work.freq = s.work.base then { s with work := { s.work with div := 0, achieved := s.work.base } } else s)

/-- CS.3 (R193), only where the target is not the base rate: the smallest even divider up to MAX_DIV whose rate is not
above the target; floor division. -/
def csSearch (s : State) : State :=
  if s.work.freq = s.work.base then goTo .cs4 0 s
  else
    match findDiv s.work.base.toNat s.work.freq.toNat s.cfg.maxDiv.toNat with
    | none => finish .clockUnsupported s
    | some d =>
      goTo .cs4 0
        { s with work := { s.work with
            div := BitVec.ofNat 32 d, achieved := BitVec.ofNat 32 (s.work.base.toNat / d) } }

/-- CS.4 (R194): one write of the clock word. -/
def csWrite (s : State) : State :=
  goTo .cs5 0
    (regWrite .clkCtrl ((clkWord s.cfg.bits s.work.div).setWidth 32)
      { s with work := { s.work with clk := clkWord s.cfg.bits s.work.div, spin := 0 } })

/-- CS.5, the spin (R195): one read a step, until CLK_STABLE reads 1. -/
def csSpin (s : State) : State :=
  if spinExhausted s then fatalAbort s
  else
    let v := readValue .clkCtrl s
    let t := regRead .clkCtrl s
    if clkStable s.cfg.bits v then goTo .cs5 1 { t with work := { t.work with tmp := v } }
    else { t with work := { t.work with spin := t.work.spin + 1 } }

/-- CS.5, the enable (R196): the last value read, with CLK_EN. -/
def csEnable (s : State) : State :=
  goTo .cs6 0 (regWrite .clkCtrl (s.work.tmp ||| s.cfg.bits.clkEn.setWidth 32) s)

/-- CS.6 (R197): the achieved rate is recorded, last. -/
def csRecord (s : State) : State :=
  finish .success { s with h := { s.h with curClkRate := some s.work.achieved } }

/-- One step of the six phases of `CLK_SUPPLY`, also where they are nested; the target is `work.freq`. -/
def clkSupplyStep (s : State) : Result :=
  match s.st with
  | .cs1 => csRange s
  | .cs2 => .next (csPassThrough s)
  | .cs3 => .next (csSearch s)
  | .cs4 => .next (csWrite s)
  | .cs5 => .next (if s.pos = 0 then csSpin s else csEnable s)
  | .cs6 => .next (csRecord s)
  | _ => .refused .phaseMismatch

/-- `CLK_SUPPLY freq` (R190). With H.base_clk_rate unwritten the request is outside the domain (10_state.md R23, R71;
U4): it stops when it is offered (log 6). -/
def execClkSupply (freq : Word) (s : State) : Result :=
  runOp (.clkSupply freq)
    (fun s =>
      if s.h.baseClkRate = none then .fault (.unwrittenField .baseClkRate)
      else accept (.clkSupply freq) .cs1 .idle { Work.blank with freq := freq } s)
    clkSupplyStep s

/-- CF.1 (R199): one read of PRESENT_STATE; BUS_BUSY where a line is active. -/
def cfIdle (s : State) : State :=
  let t := regRead .presentState s
  if linesIdle s.cfg.bits (readValue .presentState s) then goTo .cf2 0 t else finish .busBusy t

/-- CF.2 (R199): CLK_EN is cleared by read-modify-write. -/
def cfDisable (s : State) : State :=
  if s.pos = 0 then
    goTo .cf2 1 { regRead .clkCtrl s with work := { s.work with tmp := readValue .clkCtrl s } }
  else goTo .cf3 0 (regWrite .clkCtrl (s.work.tmp &&& ~~~(s.cfg.bits.clkEn.setWidth 32)) s)

/-- CF.3 (R199): `return CLK_SUPPLY(freq)`; its status is handed on (60_exceptions.md R377). -/
def cfSupply (freq : Word) (s : State) : Result :=
  if s.pos = 0 then .next (call .cs1 .cf3 1 { s with work := { s.work with freq := freq } })
  else
    match s.work.inner with
    | some k => .next (finish k s)
    | none => .refused .phaseMismatch

def changeFrequencyStep (freq : Word) (s : State) : Result :=
  match s.st with
  | .cf1 => .next (cfIdle s)
  | .cf2 => .next (cfDisable s)
  | .cf3 => cfSupply freq s
  | _ => clkSupplyStep s

/-- `CHANGE_FREQUENCY freq` (R199), which the model exposes to the caller (30_encoding.md R121; log 9). It stops where the
CLK_SUPPLY it ends in would (10_state.md R71, U4; log 6). -/
def execChangeFrequency (freq : Word) (s : State) : Result :=
  runOp (.changeFrequency freq)
    (fun s =>
      if s.h.baseClkRate = none then .fault (.unwrittenField .baseClkRate)
      else accept (.changeFrequency freq) .cf1 .idle Work.blank s)
    (changeFrequencyStep freq) s

end Sys2Proof.Machine
end

