-- ==== Sys2Proof/Machine/Builder.lean ====
section
/-! DEFINITION. The ADMA2 descriptor builder: `BUILD_TABLE`, and the table entry `ADMA2_ENTRY`
(42_descriptor_builder.md, 30_encoding.md R140 to R143). -/

namespace Sys2Proof.Machine

/-- BT.1 (R220, R224): count the entries and allocate the table; `fail` is fatal. -/
def btAlloc (s : State) : State :=
  let count := entryCount s.cfg.maxLine.toNat s.work.len.toNat
  let zero := decide (1 < count)
  let t := alloc (8 * count) s.work.addr s.work.len.toNat zero s
  match allocAnswer (8 * count) s.work.addr s.work.len.toNat s with
  | none => fatalAbort t
  | some a =>
    goTo .bt2 0
      { t with work := { t.work with table := some a, count := count, idx := 0, rem := t.work.len } }

/-- The three writes of `WriteEntry` (R220), in their order: address, length, attribute, each at its offset (30_encoding.md
R140). -/
def entryWrite (f : Nat) (t : Word) (i : Nat) (addr : Word) (len : Half) (attr : Half) (s : State) : State :=
  match f with
  | 0 => memWrite (entryAddr t i s.cfg.entry.addrOff) 4 addr s
  | 1 => memWrite (entryAddr t i s.cfg.entry.lenOff) 2 (len.setWidth 32) s
  | _ => memWrite (entryAddr t i s.cfg.entry.attrOff) 2 (attr.setWidth 32) s

/-- BT.2 (R220, R222): one field a step; after an entry's attribute the next entry, or BT.3. -/
def btEntry (t : Word) (s : State) : State :=
  let w := s.work
  let last := decide (w.idx + 1 = w.count)
  let len := (entryLen s.cfg.maxLine w.count w.idx w.rem).setWidth 16
  let s' := entryWrite s.pos t w.idx w.addr len (entryAttr s.cfg.entry last) s
  if s.pos < 2 then goTo .bt2 (s.pos + 1) s'
  else if last then goTo .bt3 0 s'
  else
    goTo .bt2 0
      { s' with
        work := { w with
          idx := w.idx + 1, addr := w.addr + s.cfg.maxLine, rem := w.rem - s.cfg.maxLine } }

/-- BT.3 (R223): one `CacheClean` over the whole table, and back to the caller, who frees it (R226). Run alone,
`BUILD_TABLE` hands the table's address over, and no rule says who frees that table: its block stays live (the model's
choice, log 9). -/
def btClean (t : Word) (s : State) : State := handOver (.table t) (cacheClean t (8 * s.work.count) s)

/-- One step of `BUILD_TABLE` (R220); the operands are `work.addr` and `work.len`, the result is `work.table`. -/
def buildTableStep (s : State) : Result :=
  match s.st with
  | .bt1 => .next (btAlloc s)
  | .bt2 =>
    match s.work.table with
    | some t => .next (btEntry t s)
    | none => .refused .noTable
  | .bt3 =>
    match s.work.table with
    | some t => .next (btClean t s)
    | none => .refused .noTable
  | _ => .refused .phaseMismatch

/-- `BUILD_TABLE addr len` (R220), run alone (log 9). -/
def execBuildTable (addr len : Word) (s : State) : Result :=
  runOp (.buildTable addr len)
    (accept (.buildTable addr len) .bt1 .idle { Work.blank with addr := addr, len := len })
    buildTableStep s

end Sys2Proof.Machine
end

