-- ==== Sys2Proof/Machine/Response.lean ====
section
/-! DEFINITION. The response extraction and the error-status decoder: `RESP_EXTRACT` and `ERR_DECODE`
(44_response_and_errors.md). They have no phases of their own: they run in SC.7 and SC.9 (10_state.md R30; log 31). -/

namespace Sys2Proof.Machine

/-- One read of `RESP_EXTRACT rt` (R290 to R292), `done` where it was the last: each register once, ascending; for a
136-bit response the slots are written after the fourth read, else slot 0 after the first. -/
def respExtractStep (rt : BitVec 2) (done : State → State) (s : State) : State :=
  match s.pos with
  | 0 =>
    let v := readValue .resp0 s
    let t := regRead .resp0 s
    if rt = s.cfg.bits.resp136 then goTo .sc7 1 { t with work := { t.work with raw := { t.work.raw with w0 := v } } }
    else done { t with slots := { t.slots with w0 := v } }
  | 1 =>
    let v := readValue .resp1 s
    let t := regRead .resp1 s
    goTo .sc7 2 { t with work := { t.work with raw := { t.work.raw with w1 := v } } }
  | 2 =>
    let v := readValue .resp2 s
    let t := regRead .resp2 s
    goTo .sc7 3 { t with work := { t.work with raw := { t.work.raw with w2 := v } } }
  | _ =>
    let v := readValue .resp3 s
    let t := regRead .resp3 s
    let raw := { t.work.raw with w3 := v }
    done { t with work := { t.work with raw := raw }, slots := reassemble raw }

/-- One read of `ERR_DECODE` (R295), `done` with the kind found in `work.hw`: NRML_INT_STS, and where ERR_INT is set
ERR_INT_STS. -/
def errDecodeStep (done : State → State) (s : State) : State :=
  match s.pos with
  | 0 =>
    let t := regRead .nrmlIntSts s
    if errInt s.cfg.bits (readValue .nrmlIntSts s) then goTo .sc9 1 t
    else done { t with work := { t.work with hw := none } }
  | _ =>
    let v := readValue .errIntSts s
    let t := regRead .errIntSts s
    done { t with work := { t.work with hw := errKind s.cfg.bits v } }

/-- `RESP_EXTRACT rt` (R290), run alone (log 9); its output is the slots. -/
def execRespExtract (rt : BitVec 2) (s : State) : Result :=
  runOp (.respExtract rt)
    (accept (.respExtract rt) .sc7 .idle { Work.blank with rt := rt })
    (fun s => if s.st = .sc7 then .next (respExtractStep rt leave s) else .refused .phaseMismatch) s

/-- The end of `ERR_DECODE` run alone: the kind found is handed over (log 9). -/
def edHandOver (s : State) : State := handOver (.decoded s.work.hw) s

/-- `ERR_DECODE` (R295), run alone (log 9). -/
def execErrDecode (s : State) : Result :=
  runOp .errDecode
    (accept .errDecode .sc9 .idle Work.blank)
    (fun s => if s.st = .sc9 then .next (errDecodeStep edHandOver s) else .refused .phaseMismatch) s

end Sys2Proof.Machine
end

