-- ==== Sys2Proof/Machine/Command.lean ====
section
/-! DEFINITION. The command engine: `SOFT_RESET` and the eleven steps of `SEND_COMMAND` (43_command_engine.md). -/

namespace Sys2Proof.Machine

/-! ### SOFT_RESET -/

/-- SR.1 (R272): write the mask. -/
def srWrite (s : State) : State :=
  goTo .sr2 0 (regWrite .swReset (s.work.mask.setWidth 32) { s with work := { s.work with spin := 0 } })

/-- SR.2 (R272): one read a step, until every bit of the mask reads 0. -/
def srSpin (s : State) : State :=
  if spinExhausted s then fatalAbort s
  else
    let t := regRead .swReset s
    if readValue .swReset s &&& s.work.mask.setWidth 32 = 0 then leave t
    else { t with work := { t.work with spin := t.work.spin + 1 } }

/-- One step of `SOFT_RESET`; the mask is `work.mask`. -/
def softResetStep (s : State) : Result :=
  match s.st with
  | .sr1 => .next (srWrite s)
  | .sr2 => .next (srSpin s)
  | _ => .refused .phaseMismatch

/-- `SOFT_RESET mask` (R272), run alone (log 9). -/
def execSoftReset (mask : Byte) (s : State) : Result :=
  runOp (.softReset mask)
    (accept (.softReset mask) .sr1 .idle { Work.blank with mask := mask })
    softResetStep s

/-! ### SEND_COMMAND, phase by phase -/

/-- SC.1 (R250): at most IDLE_RETRY_MAX reads of PRESENT_STATE, a delay after each that shows activity. -/
def scIdle (s : State) : State :=
  if s.pos = 0 then
    goTo (if linesIdle s.cfg.bits (readValue .presentState s) then .sc2 else .sc1)
      (if linesIdle s.cfg.bits (readValue .presentState s) then 0 else 1) (regRead .presentState s)
  else
    let t := delay s.cfg.idleSpacingUs { s with work := { s.work with n := s.work.n + 1 } }
    if s.work.n + 1 = s.cfg.idleRetryMax then finish .busBusy t else goTo .sc1 0 t

/-- SC.2 (R252): map the tag; no event. -/
def scMap (c : Cmd) (s : State) : State :=
  match mapResp s.cfg.bits s.cfg.codes c.respType with
  | none => finish .invalidArgument s
  | some rt => goTo .sc3 0 { s with work := { s.work with rt := rt } }

/-- SC.3 (R254): compose the flags, program the timeout. -/
def scTimeout (c : Cmd) (s : State) : State :=
  goTo .sc4 0
    (regWrite .timeoutCtrl (s.cfg.cmdTimeoutVal.setWidth 32)
      { s with work := { s.work with flags := cmdFlags s.cfg.bits s.work.rt c.dataPresent c.cmdType } })

/-- SC.4 (R256), only if data is present: build the table; then BLKSZ, ARG2 for more than one block, BLKCNT, ADMA_ADDR,
which hands the table to the device (10_state.md R60), TRANSMODE. -/
def scData (c : Cmd) (s : State) : Result :=
  match s.pos with
  | 0 =>
    .next
      (if c.dataPresent then
        call .bt1 .sc4 1
          { s with work := { s.work with table := none, addr := c.buf, len := c.blockCount * s.cfg.blockSize } }
       else goTo .sc5 0 { s with work := { s.work with table := none } })
  | 1 =>
    .next
      (goTo .sc4 (if 1 < c.blockCount.toNat then 2 else 3)
        (regWrite .blksz s.cfg.blockSize
          { s with work := { s.work with tm := transModeWord s.cfg.bits c.blockCount (isRead s.cfg.codes c) } }))
  | 2 => .next (goTo .sc4 3 (regWrite .arg2 c.blockCount s))
  | 3 => .next (goTo .sc4 4 (regWrite .blkcnt ((c.blockCount.setWidth 16).setWidth 32) s))
  | 4 =>
    match s.work.table with
    | none => .refused .noTable
    | some t =>
      .next (goTo .sc4 5 (regWrite .admaAddr t { s with tableInFlight := some (t, 8 * s.work.count) }))
  | _ => .next (goTo .sc5 0 (regWrite .transmode (s.work.tm.setWidth 32) s))

/-- SC.5 (R258): the argument, then the command word, which starts the transaction. -/
def scIssue (c : Cmd) (s : State) : State :=
  if s.pos = 0 then goTo .sc5 1 (regWrite .arg c.argument s)
  else
    goTo .sc6 0
      (regWrite .cmd ((cmdWord s.cfg.bits c.index s.work.flags).setWidth 32)
        { s with work := { s.work with cmdTo := false, transTo := false, n := 0 } })

/-- SC.6 (R260): poll for CMD_COMPLETE, at most CMD_RETRY_MAX reads; then clear it, or go to SC.9 with `cmd_to`. -/
def scCmdPoll (s : State) : State :=
  match s.pos with
  | 0 =>
    goTo .sc6 (if cmdComplete s.cfg.bits (readValue .nrmlIntSts s) then 2 else 1) (regRead .nrmlIntSts s)
  | 1 =>
    let t := delay s.cfg.cmdSpacingUs { s with work := { s.work with n := s.work.n + 1 } }
    if s.work.n + 1 = s.cfg.cmdRetryMax then goTo .sc9 0 { t with work := { t.work with cmdTo := true } }
    else goTo .sc6 0 t
  | _ => goTo .sc7 0 (regWrite .nrmlIntSts (s.cfg.bits.cmdComplete.setWidth 32) s)

/-- SC.8 (R262): with data, or for the switch command, poll for TRANS_COMPLETE, at most TRANS_RETRY_MAX reads; then
clear it, or go to SC.9 with `trans_to`. -/
def scTransPoll (c : Cmd) (s : State) : State :=
  match s.pos with
  | 0 =>
    if c.dataPresent = true ∨ c.index.toNat = s.cfg.switchCmdIndex then
      goTo .sc8 1 { s with work := { s.work with n := 0 } }
    else goTo .sc9 0 s
  | 1 =>
    goTo .sc8 (if transComplete s.cfg.bits (readValue .nrmlIntSts s) then 3 else 2) (regRead .nrmlIntSts s)
  | 2 =>
    let t := delay s.cfg.transSpacingUs { s with work := { s.work with n := s.work.n + 1 } }
    if s.work.n + 1 = s.cfg.transRetryMax then goTo .sc9 0 { t with work := { t.work with transTo := true } }
    else goTo .sc8 1 t
  | _ => goTo .sc9 0 (regWrite .nrmlIntSts (s.cfg.bits.transComplete.setWidth 32) s)

/-- SC.10 (R266): the combined soft reset if data was present, whatever happened. -/
def scCleanup (c : Cmd) (s : State) : State :=
  if c.dataPresent then call .sr1 .sc11 0 { s with work := { s.work with mask := resetCmdDat s.cfg.bits } } else goTo .sc11 0 s

/-- The status of SC.11 (R270). -/
def scStatus (s : State) : Status := finalStatus s.work.hw s.work.cmdTo s.work.transTo

/-- SC.11 (R268): invalidate a read buffer on SUCCESS, free the table, return. -/
def scEnd (c : Cmd) (s : State) : Result :=
  if s.pos = 0 ∧ scStatus s = .success ∧ c.dataPresent = true ∧ isRead s.cfg.codes c = true then
    .next (goTo .sc11 1 (cacheInvalidate c.buf s.work.len.toNat s))
  else if c.dataPresent then
    match s.work.table with
    | none => .refused .noTable
    | some t => .next (finish (scStatus s) (free t s))
  else .next (finish (scStatus s) s)

/-- One step of `SEND_COMMAND` (R240, R241). -/
def sendCommandStep (c : Cmd) (s : State) : Result :=
  match s.st with
  | .sc1 => .next (scIdle s)
  | .sc2 => .next (scMap c s)
  | .sc3 => .next (scTimeout c s)
  | .sc4 => scData c s
  | .sc5 => .next (scIssue c s)
  | .sc6 => .next (scCmdPoll s)
  | .sc7 => .next (respExtractStep s.work.rt (goTo .sc8 0) s)
  | .sc8 => .next (scTransPoll c s)
  | .sc9 => .next (errDecodeStep (goTo .sc10 0) s)
  | .sc10 => .next (scCleanup c s)
  | .sc11 => scEnd c s
  | .sr1 => softResetStep s
  | .sr2 => softResetStep s
  | _ => buildTableStep s

/-- `SEND_COMMAND cmd` (R240): the descriptor is latched at acceptance (10_state.md R25). -/
def execSendCommand (c : Cmd) (s : State) : Result :=
  runOp (.sendCommand c) (accept (.sendCommand c) .sc1 .idle Work.blank) (sendCommandStep c) s

end Sys2Proof.Machine
end

