-- ==== Sys2Proof/Machine/Init.lean ====
section
/-! DEFINITION. The initialisation orchestrator and the four configuration operations
(45_init_and_config_ops.md). -/

namespace Sys2Proof.Machine

/-! ### SET_BUS_WIDTH -/

/-- BW.1 (R320): the width code; an unrecognised tag ends the operation with no register access. -/
def bwCode (s : State) : State :=
  match busWidthCode s.cfg s.work.width with
  | none => finish .invalidArgument s
  | some code => goTo .bw2 0 { s with work := { s.work with code := code } }

/-- BW.2 (R320): HOST_CTRL1 is read and written back with the code ORed in. -/
def bwWrite (s : State) : State :=
  if s.pos = 0 then
    goTo .bw2 1 { regRead .hostCtrl1 s with work := { s.work with tmp := readValue .hostCtrl1 s } }
  else finish .success (regWrite .hostCtrl1 (s.work.tmp ||| s.work.code.setWidth 32) s)

/-- One step of `SET_BUS_WIDTH`; the tag is `work.width`. -/
def setBusWidthStep (s : State) : Result :=
  match s.st with
  | .bw1 => .next (bwCode s)
  | .bw2 => .next (bwWrite s)
  | _ => .refused .phaseMismatch

/-- `SET_BUS_WIDTH width` (R320). -/
def execSetBusWidth (width : Half) (s : State) : Result :=
  runOp (.setBusWidth width)
    (accept (.setBusWidth width) .bw1 .idle { Work.blank with width := width })
    setBusWidthStep s

/-! ### SET_SDR_MODE and SET_DDR_MODE -/

/-- SM.1, DM.1 (R325, R326): CLK_EN is cleared by read-modify-write. -/
def modeClockOff (here after : Phase) (s : State) : State :=
  if s.pos = 0 then
    goTo here 1 { regRead .clkCtrl s with work := { s.work with tmp := readValue .clkCtrl s } }
  else goTo after 0 (regWrite .clkCtrl (s.work.tmp &&& ~~~(s.cfg.bits.clkEn.setWidth 32)) s)

/-- SM.2, DM.2: the mode bit is ORed into HOST_CTRL2. -/
def modeSelect (here after : Phase) (bit : Half) (s : State) : State :=
  if s.pos = 0 then
    goTo here 1 { regRead .hostCtrl2 s with work := { s.work with tmp := readValue .hostCtrl2 s } }
  else goTo after 0 (regWrite .hostCtrl2 (s.work.tmp ||| bit.setWidth 32) s)

/-- SM.3, DM.3: the clock runs again at the current rate; the inner status is discarded (60_exceptions.md R377). The
read of an unwritten H.cur_clk_rate has no value (10_state.md R71, U4); no run comes here with it unwritten (log 32). -/
def modeClockOn (here : Phase) (s : State) : Result :=
  if s.pos = 0 then
    match s.h.curClkRate with
    | none => .fault (.unwrittenField .curClkRate)
    | some f => .next (call .cs1 here 1 { s with work := { s.work with freq := f } })
  else .next (finish .success s)

def setSdrModeStep (s : State) : Result :=
  match s.st with
  | .sm1 => .next (modeClockOff .sm1 .sm2 s)
  | .sm2 => .next (modeSelect .sm2 .sm3 s.cfg.bits.sdr50ModeEn s)
  | .sm3 => modeClockOn .sm3 s
  | _ => clkSupplyStep s

def setDdrModeStep (s : State) : Result :=
  match s.st with
  | .dm1 => .next (modeClockOff .dm1 .dm2 s)
  | .dm2 => .next (modeSelect .dm2 .dm3 s.cfg.bits.ddrModeEn s)
  | .dm3 => modeClockOn .dm3 s
  | _ => clkSupplyStep s

/-- `SET_SDR_MODE` (R325). With H.cur_clk_rate unwritten the request is outside the domain (10_state.md R23, R71; U4; vector
G11): it stops when it is offered (log 6), as it does with H.base_clk_rate unwritten, which its CLK_SUPPLY reads; of the
two the current rate is named (log 36). -/
def execSetSdrMode (s : State) : Result :=
  runOp .setSdrMode
    (fun s =>
      if s.h.curClkRate = none then .fault (.unwrittenField .curClkRate)
      else if s.h.baseClkRate = none then .fault (.unwrittenField .baseClkRate)
      else accept .setSdrMode .sm1 .idle Work.blank s)
    setSdrModeStep s

/-- `SET_DDR_MODE` (R326). It stops where `SET_SDR_MODE` does (10_state.md R23, R71; U4; log 6, 36). -/
def execSetDdrMode (s : State) : Result :=
  runOp .setDdrMode
    (fun s =>
      if s.h.curClkRate = none then .fault (.unwrittenField .curClkRate)
      else if s.h.baseClkRate = none then .fault (.unwrittenField .baseClkRate)
      else accept .setDdrMode .dm1 .idle Work.blank s)
    setDdrModeStep s

/-! ### MODE_ENABLE -/

/-- ME.1 (R330): one write of HC_MODE, 1 for any flag but 0. `flag = 0` after `INIT` takes the main block away (U16; log 21).
DESIGN CHOICE (log 38), unsafe: `flag = 0` in UNINIT leaves it answering, and INIT and what follows run on the registers of
R40; the spec asks the platform for a controller not in its legacy mode (70_reset_and_hazards.md R404) and says no more. -/
def meWrite (flag : Byte) (s : State) : State :=
  finish .success
    (pwrWrite .hcMode (if flag ≠ 0 then s.cfg.bits.hcModeEn else 0)
      { s with blockGone := s.blockGone || (decide (flag = 0) && decide (s.home = .idle)) })

/-- `MODE_ENABLE flag` (R330): the engine returns to the phase it was in (70_reset_and_hazards.md R406). -/
def execModeEnable (flag : Byte) (s : State) : Result :=
  runOp (.modeEnable flag)
    (fun s => accept (.modeEnable flag) .me1 s.st Work.blank s)
    (fun s => if s.st = .me1 then .next (meWrite flag s) else .refused .phaseMismatch) s

/-! ### INIT -/

/-- IN.1 (R311): the nested reset of the whole controller. -/
def inReset (s : State) : State :=
  call .sr1 .in2 0 { s with work := { s.work with mask := s.cfg.bits.resetAll } }

/-- IN.2 (R312): the two capability words; the second read fills the record and makes the current rate unwritten. -/
def inCaps (s : State) : State :=
  if s.pos = 0 then
    goTo .in2 1 { regRead .caps1 s with work := { s.work with tmp := readValue .caps1 s } }
  else goTo .in3 0 { regRead .caps2 s with h := capRecord s.cfg.bits s.work.tmp (readValue .caps2 s) }

/-- IN.6 (R314): the voltage selection alone, then with BUS_PWR_EN. The read of an unwritten H.voltage has no value
(10_state.md R71, U4); no run comes here with it unwritten, for IN.2 wrote it (log 32). -/
def inPower (s : State) : Result :=
  match s.h.voltage with
  | none => .fault (.unwrittenField .voltage)
  | some v =>
    .next
      (if s.pos = 0 then goTo .in6 1 (regWrite .pwrCtrl ((v <<< s.cfg.bits.voltSelPos).setWidth 32) s)
       else goTo .in7 0 (regWrite .pwrCtrl (((v <<< s.cfg.bits.voltSelPos) ||| s.cfg.bits.busPwrEn).setWidth 32) s))

/-- IN.7 (R315): the caller context has no step while the event is 0 (40_power_handshake.md R174; log 19). -/
def inWait (s : State) : State := if s.ev then goTo .in8 0 (eventPass s) else s

/-- IN.10 (R318): the four enables. -/
def inEnables (s : State) : State :=
  match s.pos with
  | 0 => goTo .in10 1 (regWrite .nrmlIntStsEn (s.cfg.nrmlIntEnVal.setWidth 32) s)
  | 1 => goTo .in10 2 (regWrite .errIntStsEn (s.cfg.errIntEnVal.setWidth 32) s)
  | 2 => goTo .in10 3 (regWrite .nrmlIntSigEn (s.cfg.nrmlIntEnVal.setWidth 32) s)
  | _ => goTo .in11 0 (regWrite .errIntSigEn (s.cfg.errIntEnVal.setWidth 32) s)

/-- One step of `INIT` (R310). -/
def initStep (s : State) : Result :=
  match s.st with
  | .in1 => .next (inReset s)
  | .in2 => .next (inCaps s)
  | .in3 => .next (goTo .in4 0 (eventArm s))
  | .in4 => .next (goTo .in5 0 (irqUnmask s))
  | .in5 => .next (goTo .in6 0 (pwrWrite .mask s.cfg.pwrIntEnVal s))
  | .in6 => inPower s
  | .in7 => .next (inWait s)
  | .in8 => .next (call .bw1 .in9 0 { s with work := { s.work with width := s.cfg.codes.w1 } })
  | .in9 => .next (goTo .in10 0 (regWrite .hostCtrl1 (s.cfg.bits.admaSel.setWidth 32) s))
  | .in10 => .next (inEnables s)
  | .in11 => .next (finish .success s)
  | .bw1 => setBusWidthStep s
  | .bw2 => setBusWidthStep s
  | _ => softResetStep s

/-- `INIT` (R310): accepted in UNINIT and in IDLE, ends in IDLE (R319). -/
def execInit (s : State) : Result :=
  runOp .init (accept .init .in1 .idle Work.blank) initStep s

end Sys2Proof.Machine
end

