-- ==== Sys2Proof/Machine/Power.lean ====
section
/-! DEFINITION. The power-sequencing interrupt coordinator: `PWR_IRQ` (40_power_handshake.md R170, R171). When it may
run is Machine/Port.lean's (R176); the wait it ends is phase IN.7 of `INIT`. -/

namespace Sys2Proof.Machine

/-- `PWR_IRQ` (R170): the interrupt context runs the handler, whatever phase the caller context is in (R176). -/
def execPwrIrq (s : State) : Result := .next (takePwrIrq s)

end Sys2Proof.Machine
end

