-- ==== Sys2Proof/Machine/Words.lean ====
section
/-! DEFINITION. The hardware-side words and the reserved codes. A word's meaning is the interface event that writes it
to its place (30_encoding.md section 3, R140; 20_memory.md R90; log 10): the engine performs the same event at the
phase that produces the word. A reserved code is refused (30_encoding.md R123). -/

namespace Sys2Proof.Machine

/-- An event of the caller context, which ABORTED never performs (60_exceptions.md R356), for a word the engine can
produce. -/
def callerEvent (i : Instr) (f : State → State) (s : State) : Result :=
  match domainError s.cfg i with
  | some e => .refused (.outsideDomain e)
  | none => .next (if s.st = .aborted then s else f s)

/-- `WORD_CMD` (R126): the write to CMD, which starts a transaction. -/
def execWordCmd (i : BitVec 6) (t : BitVec 2) (p : Bool) (r : BitVec 2) (s : State) : Result :=
  callerEvent (.wordCmd i t p r) (regWrite .cmd ((wordCmdValue s.cfg.bits i t p r).setWidth 32)) s

/-- `WORD_TRANSMODE` (R127): the write to TRANSMODE. -/
def execWordTransmode (m d a c : Bool) (s : State) : Result :=
  callerEvent (.wordTransmode m d a c) (regWrite .transmode ((wordTransmodeValue s.cfg.bits m d a c).setWidth 32)) s

/-- `WORD_CLK` (R128): the first write of CLK_SUPPLY to CLK_CTRL. -/
def execWordClk (l : Byte) (h : BitVec 2) (s : State) : Result :=
  callerEvent (.wordClk l h) (regWrite .clkCtrl ((clkFields s.cfg.bits l h).setWidth 32)) s

/-- `WORD_SW_RESET` (R135): the write to SW_RESET. -/
def execWordSwReset (d c a : Bool) (s : State) : Result :=
  callerEvent (.wordSwReset d c a) (regWrite .swReset ((wordSwResetValue s.cfg.bits d c a).setWidth 32)) s

/-- `WORD_PWR_ACK` (R136): the interrupt context's write to PWRCTL_CTL, which ends the pending interrupt
(10_state.md R62); ABORTED does not affect it (60_exceptions.md R356). -/
def execWordPwrAck (i b : Bool) (s : State) : Result :=
  .next
    (emitIrq (.pwrWrite .ctl (ackFields s.cfg.bits i b))
      { s with
        pwr := { s.pwr with ctl := ⟨ackFields s.cfg.bits i b, true⟩ }
        irq := { s.irq with pending := false } })

/-- `WORD_STS_CLEAR` (R137): the write to NRML_INT_STS, which clears the bit written 1. -/
def execWordStsClear (t c : Bool) (s : State) : Result :=
  callerEvent (.wordStsClear t c) (regWrite .nrmlIntSts ((wordStsClearValue s.cfg.bits t c).setWidth 32)) s

/-- One step of `ADMA2_ENTRY`: the three writes of `WriteEntry` (42_descriptor_builder.md R220), one event each. -/
def entryStep (addr : Word) (len : Half) (e : Bool) (s : State) : Result :=
  if s.st = .bt2 then
    match s.work.table with
    | none => .refused .noTable
    | some t =>
      let s' := entryWrite s.pos t s.work.idx addr len (entryAttr s.cfg.entry e) s
      .next (if s.pos < 2 then goTo .bt2 (s.pos + 1) s' else leave s')
  else .refused .phaseMismatch

/-- `ADMA2_ENTRY` (R140, R220): the entry's three fields, run alone in the place a table's next entry has; with no table
there is no place (log 11). -/
def execAdma2Entry (addr : Word) (len : Half) (e : Bool) (s : State) : Result :=
  runOp (.adma2Entry addr len e)
    (fun s =>
      match s.work.table with
      | none => .refused .noTable
      | some t =>
        accept (.adma2Entry addr len e) .bt2 .idle { Work.blank with table := some t, idx := s.work.idx } s)
    (entryStep addr len e) s

/-- `RESERVED_7` (R123). -/
def execReserved7 (_ : State) : Result := .refused (.reservedCode 7)

/-- `RESERVED_14` (R123). -/
def execReserved14 (_ : State) : Result := .refused (.reservedCode 14)

/-- `RESERVED_15` (R123). -/
def execReserved15 (_ : State) : Result := .refused (.reservedCode 15)

end Sys2Proof.Machine
end

