-- ==== Sys2Proof/Machine/Dispatch.lean ====
section
/-! DEFINITION. One arm per instruction: its meaning. -/

namespace Sys2Proof.Machine

def exec (i : Instr) (s : State) : Host.Outcome State Fault Refusal :=
  match i with
  | .init => Sys2Proof.Machine.execInit s
  | .sendCommand c => Sys2Proof.Machine.execSendCommand c s
  | .clkSupply freq => Sys2Proof.Machine.execClkSupply freq s
  | .setBusWidth width => Sys2Proof.Machine.execSetBusWidth width s
  | .setSdrMode => Sys2Proof.Machine.execSetSdrMode s
  | .setDdrMode => Sys2Proof.Machine.execSetDdrMode s
  | .modeEnable flag => Sys2Proof.Machine.execModeEnable flag s
  | .reserved7 => Sys2Proof.Machine.execReserved7 s
  | .reserved14 => Sys2Proof.Machine.execReserved14 s
  | .reserved15 => Sys2Proof.Machine.execReserved15 s
  | .changeFrequency freq => Sys2Proof.Machine.execChangeFrequency freq s
  | .buildTable addr len => Sys2Proof.Machine.execBuildTable addr len s
  | .softReset mask => Sys2Proof.Machine.execSoftReset mask s
  | .respExtract rt => Sys2Proof.Machine.execRespExtract rt s
  | .errDecode => Sys2Proof.Machine.execErrDecode s
  | .pwrIrq => Sys2Proof.Machine.execPwrIrq s
  | .wordCmd x t p r => Sys2Proof.Machine.execWordCmd x t p r s
  | .wordTransmode m d a c => Sys2Proof.Machine.execWordTransmode m d a c s
  | .wordClk l h => Sys2Proof.Machine.execWordClk l h s
  | .wordSwReset d c a => Sys2Proof.Machine.execWordSwReset d c a s
  | .wordPwrAck x b => Sys2Proof.Machine.execWordPwrAck x b s
  | .wordStsClear t c => Sys2Proof.Machine.execWordStsClear t c s
  | .adma2Entry addr len e => Sys2Proof.Machine.execAdma2Entry addr len e s

end Sys2Proof.Machine
end

