-- ==== Sys2Proof/Machine/Port.lean ====
section
/-! DEFINITION. The request port, the turns of the two contexts and of the outside world, and how a word is loaded
(20_memory.md R81, R95; 60_exceptions.md R366, R371, R376; 70_reset_and_hazards.md R406). Step.lean only calls these. -/

namespace Sys2Proof.Machine

/-! ### What the outside does -/

/-- A request word with its operation code, by Cfg's table of codes (00_scope.md R8), recoded as the opcode table numbers
it. By default the two are the same. -/
def recoded (k : Codes) (o : Offer) : Except Refusal Offer :=
  match o.digits with
  | [] => .ok o
  | d :: ds =>
    match k.ops.idxOf? d with
    | some n => .ok { o with digits := BitVec.ofNat 4 n :: ds }
    | none => .error (.unknownCode d)

/-- What a caller may offer: a word on the request port, or the `CHANGE_FREQUENCY` the model exposes (30_encoding.md R121;
log 9). The other internal sequences run only where an operation calls them, and a hardware-side word is written by the
engine. -/
def offerable (o : Offer) : Bool :=
  o.place == .port ||
    (o.place == .sequence &&
      (match decodeAt .sequence o.digits with | .ok i => isInternal i && isExposed i | .error _ => false))

/-- The caller offers a word. While an operation runs, or while another word waits, it is refused (R81, U1; log 20); in
ABORTED nothing is accepted, for ever (R406). -/
def offerWord (o : Offer) (s : State) : Result :=
  if s.st = .aborted then .next s
  else if s.cur.isSome || s.offer.isSome then .refused .portBusy
  else
    match recoded s.cfg.codes o with
    | .error r => .refused r
    | .ok w => if offerable w then .next { s with offer := some w } else .refused .notARequest

/-- One move of the outside world. A byte the CPU side stored and the cache has not written back cannot be dropped from
it, so that a refill never undoes a store (20_memory.md R96; log 17). -/
def applyMove (m : Move) (s : State) : Result :=
  match m with
  | .raiseLine => .next { s with irq := { s.irq with pending := true } }
  | .offer o => offerWord o s
  | .setSlots q => .next { s with slots := q }
  | .deviceWrite a b => .next { s with dev := s.dev.write a.toNat b }
  | .cpuWrite a b => .next { s with mem := s.mem.write a.toNat b, dirty := addrAdd s.dirty a.toNat }
  | .evict a => .next { s with dev := s.dev.copyByte s.mem a.toNat, dirty := addrDrop s.dirty a.toNat 1 }
  | .refill a => .next (if a.toNat ∈ s.dirty then s else { s with mem := s.mem.copyByte s.dev a.toNat })
  | .endTransaction => .next { s with inFlight := none }

/-! ### The caller context -/

/-- The instruction on offer, or why there is none: an internal code is not accepted from the request port (30_encoding.md
R121, R123). -/
def fetched (o : Offer) : Except Refusal Instr :=
  match decodeAt o.place o.digits with
  | .error e => .error (.undecodable e)
  | .ok i => if o.place = .port ∧ isInternal i = true then .error .internalCode else .ok i

/-- A loaded `PWR_IRQ` waits for the line like the handler itself (40_power_handshake.md R176; log 9). -/
def mustWait (i : Instr) (s : State) : Bool := i == .pwrIrq && !irqDeliverable s

/-- The caller context's turn: the next event of the running operation, or the instruction on offer. With neither, and in
ABORTED, it has no step (10_state.md R70, 60_exceptions.md R356; log 19). -/
def callerStep (s : State) : Result :=
  match s.cur with
  | some i => exec i s
  | none =>
    match s.offer with
    | none => .next s
    | some o =>
      if s.st = .aborted then .next s
      else
        match fetched o with
        | .error r => .refused r
        | .ok i => if mustWait i s then .next s else exec i { s with offer := none }

/-- The caller context has nothing to do: no operation and no offer, or the wait of IN.7 with the event 0, or ABORTED. -/
def callerHeld (s : State) : Bool :=
  s.st == .aborted || (s.cur == none && s.offer == none) || (s.st == .in7 && !s.ev)

/-! ### The interrupt context -/

/-- The interrupt context's turn: the handler, where the interrupt controller delivers the line (60_exceptions.md R371). -/
def handlerStep (s : State) : Result := if irqDeliverable s then exec .pwrIrq s else .next s

/-- With no schedule left and the line deliverable: the handler runs where the caller context has nothing to do; where both
could move, a free value decides (60_exceptions.md R366; log 3). -/
def freeStep (s : State) : Result :=
  if irqDeliverable s then
    if callerHeld s then exec .pwrIrq s
    else if Config.irqFirst s.env.draws then exec .pwrIrq { s with env := { s.env with draws := s.env.draws + 1 } }
    else callerStep { s with env := { s.env with draws := s.env.draws + 1 } }
  else callerStep s

/-- Take the first entry off the schedule. -/
def dropTurn (s : State) : State := { s with env := { s.env with sched := s.env.sched.tail } }

/-! ### Loading a word (log 13) -/

/-- The offer that carries an opcode-table word: at the place of the instruction it decodes to. -/
def loadOffer (nbits w : Nat) : Offer :=
  match decodeTableWord nbits w with
  | some i => ⟨i.place, tableDigits nbits w⟩
  | none => ⟨.port, tableDigits nbits w⟩

/-- H as `INIT` leaves it, from what its two reads would draw (45_init_and_config_ops.md R312). -/
def loadedRecord (s : State) : HostRec :=
  match s.h.baseClkRate with
  | some _ => s.h
  | none => capRecord s.cfg.bits (Config.freeRead Reg.caps1.number s.env.draws) (Config.freeRead Reg.caps2.number s.env.draws)

/-- What a request that only IDLE accepts takes: the engine idle, as `INIT` leaves it. -/
def loadIdle (s : State) : State := { s with st := .idle, home := .idle, h := loadedRecord s }

/-- What an instruction takes, beside its word, to be the next one run: a request IDLE, except the two that UNINIT
accepts; a mode change a current rate (10_state.md R71), here the base rate; `PWR_IRQ` the line raised and unmasked; a table
entry a table, here at address 0. -/
def loadFor (i : Instr) (s : State) : State :=
  match i with
  | .init | .modeEnable _ => if s.st = .uninit then s else { s with st := .idle }
  | .sendCommand _ | .clkSupply _ | .setBusWidth _ | .reserved7 | .reserved14 | .reserved15
  | .changeFrequency _ | .buildTable _ _ | .softReset _ | .respExtract _ | .errDecode => loadIdle s
  | .setSdrMode | .setDdrMode =>
    match s.h.curClkRate with
    | some _ => loadIdle s
    | none => { loadIdle s with h := { loadedRecord s with curClkRate := (loadedRecord s).baseClkRate } }
  | .pwrIrq => { s with irq := { s.irq with pending := true, masked := false } }
  | .wordCmd _ _ _ _ | .wordTransmode _ _ _ _ | .wordClk _ _ | .wordSwReset _ _ _ | .wordPwrAck _ _
  | .wordStsClear _ _ => if s.st = .aborted then { s with st := .idle } else s
  | .adma2Entry _ _ _ =>
    { s with st := .idle, home := .idle, work := { s.work with table := some (s.work.table.getD 0) } }

/-- The state in which the caller's turn comes next and the word is on offer, with no operation running. -/
def loadWord (nbits w : Nat) (s : State) : State :=
  let t :=
    match decodeTableWord nbits w with
    | some i => loadFor i s
    | none => s
  { t with
    cur := none
    ret := none
    offer := some (loadOffer nbits w)
    env := { t.env with sched := .caller :: t.env.sched } }

end Sys2Proof.Machine
end

