-- ==== Sys2Proof/Machine/Step.lean ====
section
/-! DEFINITION. One step of the machine: one turn of the schedule (20_memory.md R95, 60_exceptions.md R376), and the
loading of a word for the next step. -/

namespace Sys2Proof.Machine

/-- One step: the outside moves, the interrupt context takes its handler, or the caller context performs one event or
accepts a request. -/
def step (s : State) : Host.Outcome State Fault Refusal :=
  match s.env.sched with
  | .outside m :: _ => applyMove m (dropTurn s)
  | .handler :: _ => handlerStep (dropTurn s)
  | .caller :: _ => callerStep (dropTurn s)
  | [] => freeStep s

/-- `s` with an opcode-table word placed so that the very next step runs it (log 13). -/
def State.withFetchWord (s : State) (nbits w : Nat) : State := loadWord nbits w s

end Sys2Proof.Machine
end

