-- ==== Sys2Proof/Safety.lean ====
section
/-! DEFINITION. The terms claims are stated in: where an operation stands, runs of several events, what a safe state is
(the invariant of the machine), and which events the register table allows. -/

namespace Sys2Proof.Machine

/-! ### Where an operation stands -/

/-- `i` is running and stands at position `q` of phase `p`. -/
abbrev At (i : Instr) (p : Phase) (q : Nat) (s : State) : Prop := s.cur = some i ∧ s.st = p ∧ s.pos = q

/-- The engine waits in IDLE for a request and its main block answers. -/
abbrev Ready (s : State) : Prop := s.cur = none ∧ s.st = .idle ∧ s.blockGone = false

/-- `n` turns of `i`: its acceptance and its events, one after the other, nothing between them. -/
def execs : Nat → Instr → State → Result
  | 0, _, s => .next s
  | n + 1, i, s =>
    match exec i s with
    | .next t => execs n i t
    | .fault f => .fault f
    | .refused r => .refused r

/-! ### Words and numbers as the rules write them -/

/-- The allocator's next answer is `a`: the next one given, or, with none given, the free value. -/
def Answers (s : State) (a : Option Word) : Prop :=
  match s.env.allocs with
  | x :: _ => a = x
  | [] => a = Config.freeAlloc s.env.draws

/-- The clock word of 30_encoding.md R128 and 41_clock_controller.md R190 for `N = div / 2`, at 32 bits, in the default
bits of Cfg. -/
def ruleClkWord (div : Nat) : Word :=
  (((BitVec.ofNat 32 (div / 2)) &&& 0xFF) <<< 8) ||| ((((BitVec.ofNat 32 (div / 2)) &&& 0x300) >>> 8) <<< 6) ||| 0x0001

/-- `d` is the divider the search of R193 selects: the smallest even one from 2 to `maxDiv` with `b / d <= freq`. -/
def SelectsDivider (b freq maxDiv d : Nat) : Prop :=
  d % 2 = 0 ∧ 2 ≤ d ∧ d ≤ maxDiv ∧ b / d ≤ freq ∧ ∀ e, e % 2 = 0 → 2 ≤ e → e < d → freq < b / e

/-- The number of entries of a table (42_descriptor_builder.md R220). -/
def ruleCount (maxLine len : Nat) : Nat := if len ≤ maxLine then 1 else (len + maxLine - 1) / maxLine

/-- The logical length of entry `i` (R222). -/
def ruleLen (maxLine len i : Nat) : Nat :=
  if i + 1 < ruleCount maxLine len then maxLine else len - (ruleCount maxLine len - 1) * maxLine

/-- Entry `i` of the table for `len` bytes at `addr` as one 64-bit value (30_encoding.md R140, R141, R142), in the default
layout of Cfg. -/
def ruleEntry (maxLine : Nat) (addr : Word) (len i : Nat) : BitVec 64 :=
  (addr + BitVec.ofNat 32 (i * maxLine)) ++ BitVec.ofNat 16 (ruleLen maxLine len i) ++
    (if i + 1 < ruleCount maxLine len then (0x0021 : Half) else 0x0023)

/-- The events of BUILD_TABLE after its allocation (R220, R223): three writes an entry, in their order, then the clean of
the whole table; newest first, as the record keeps them. In the default layout of Cfg. -/
def tableRecords (maxLine : Nat) (addr t : Word) (len : Nat) : List Record :=
  .caller (.cacheClean t (8 * ruleCount maxLine len)) ::
    (List.range (ruleCount maxLine len)).reverse.flatMap (fun i =>
      [.caller (.memWrite (t + BitVec.ofNat 32 (8 * i)) 2 (if i + 1 < ruleCount maxLine len then 0x0021 else 0x0023)),
        .caller (.memWrite (t + BitVec.ofNat 32 (8 * i + 2)) 2 (BitVec.ofNat 32 (ruleLen maxLine len i % 2 ^ 16))),
        .caller (.memWrite (t + BitVec.ofNat 32 (8 * i + 4)) 4 (addr + BitVec.ofNat 32 (i * maxLine)))])

/-- The bits, the codes and the entry layout of Cfg are those of R8's default column: what a statement that writes them as
numbers takes. -/
abbrev Standard (s : State) : Prop :=
  s.cfg.bits = Bits.default ∧ s.cfg.codes = Codes.default ∧ s.cfg.entry = EntryLayout.default

/-- `u` has the `n` bytes of `v` at `a`, least significant first (20_memory.md R84), the cache has them to write back, and
every other byte is as in `s`. -/
def Stored (a : Word) (n : Nat) (v : Word) (s u : State) : Prop :=
  (∀ k, k < n → u.mem.read (a + BitVec.ofNat 32 k).toNat = some ((v >>> (8 * k)).setWidth 8)) ∧
  (∀ x, (∀ k, k < n → x ≠ (a + BitVec.ofNat 32 k).toNat) → u.mem.read x = s.mem.read x) ∧
  (∀ x, x ∈ u.dirty ↔ x ∈ s.dirty ∨ ∃ k, k < n ∧ x = (a + BitVec.ofNat 32 k).toNat)

/-- The environment's answers to the reads of RESP_EXTRACT for the response-length code `rt` (44_response_and_errors.md R290,
R292): four for a 136-bit response, else one. -/
def respReads (rt : BitVec 2) (raw : Quad) : List Word := if rt = 1 then [raw.w0, raw.w1, raw.w2, raw.w3] else [raw.w0]

/-- The events of RESP_EXTRACT, newest first. -/
def respRecords (rt : BitVec 2) (raw : Quad) : List Record :=
  if rt = 1 then
    [.caller (.regRead .resp3 raw.w3), .caller (.regRead .resp2 raw.w2), .caller (.regRead .resp1 raw.w1),
      .caller (.regRead .resp0 raw.w0)]
  else [.caller (.regRead .resp0 raw.w0)]

/-- The slots after RESP_EXTRACT (R291, R292). -/
def respSlots (rt : BitVec 2) (raw old : Quad) : Quad :=
  if rt = 1 then
    ⟨raw.w0 <<< 8, (raw.w1 <<< 8) ||| (raw.w0 >>> 24), (raw.w2 <<< 8) ||| (raw.w1 >>> 24),
      (raw.w3 <<< 8) ||| (raw.w2 >>> 24)⟩
  else { old with w0 := raw.w0 }

/-! ### Which operations run a nested sequence (10_state.md R31), the sequence itself among them -/

def runsClock : Instr → Bool
  | .clkSupply _ | .changeFrequency _ | .setSdrMode | .setDdrMode => true
  | .init | .sendCommand _ | .setBusWidth _ | .modeEnable _ | .reserved7 | .reserved14 | .reserved15 | .buildTable _ _
  | .softReset _ | .respExtract _ | .errDecode | .pwrIrq | .wordCmd _ _ _ _ | .wordTransmode _ _ _ _ | .wordClk _ _
  | .wordSwReset _ _ _ | .wordPwrAck _ _ | .wordStsClear _ _ | .adma2Entry _ _ _ => false

def runsTable : Instr → Bool
  | .sendCommand _ | .buildTable _ _ => true
  | .init | .clkSupply _ | .setBusWidth _ | .setSdrMode | .setDdrMode | .modeEnable _ | .reserved7 | .reserved14
  | .reserved15 | .changeFrequency _ | .softReset _ | .respExtract _ | .errDecode | .pwrIrq | .wordCmd _ _ _ _
  | .wordTransmode _ _ _ _ | .wordClk _ _ | .wordSwReset _ _ _ | .wordPwrAck _ _ | .wordStsClear _ _
  | .adma2Entry _ _ _ => false

def runsReset : Instr → Bool
  | .init | .sendCommand _ | .softReset _ => true
  | .clkSupply _ | .setBusWidth _ | .setSdrMode | .setDdrMode | .modeEnable _ | .reserved7 | .reserved14 | .reserved15
  | .changeFrequency _ | .buildTable _ _ | .respExtract _ | .errDecode | .pwrIrq | .wordCmd _ _ _ _
  | .wordTransmode _ _ _ _ | .wordClk _ _ | .wordSwReset _ _ _ | .wordPwrAck _ _ | .wordStsClear _ _
  | .adma2Entry _ _ _ => false

def runsWidth : Instr → Bool
  | .init | .setBusWidth _ => true
  | .sendCommand _ | .clkSupply _ | .setSdrMode | .setDdrMode | .modeEnable _ | .reserved7 | .reserved14 | .reserved15
  | .changeFrequency _ | .buildTable _ _ | .softReset _ | .respExtract _ | .errDecode | .pwrIrq | .wordCmd _ _ _ _
  | .wordTransmode _ _ _ _ | .wordClk _ _ | .wordSwReset _ _ _ | .wordPwrAck _ _ | .wordStsClear _ _
  | .adma2Entry _ _ _ => false

/-- A register spin may make another read: SPIN_BOUND is infinite, or not yet reached (70_reset_and_hazards.md R413). -/
abbrev MaySpin (s : State) : Prop := ∀ b, s.cfg.spinBound = some b → s.work.spin < b

/-- What the caller context and the port record: every record but the interrupt context's. -/
def callerRecords (l : List Record) : List Record :=
  l.filter (fun r => match r with | .irq _ => false | .caller _ | .answer _ | .table _ | .decoded _ => true)

/-! ### The phase graph (10_state.md R30, R31) -/

def isSrPhase (p : Phase) : Bool := p == .sr1 || p == .sr2
def isBtPhase (p : Phase) : Bool := p == .bt1 || p == .bt2 || p == .bt3
def isBwPhase (p : Phase) : Bool := p == .bw1 || p == .bw2
def isCsPhase (p : Phase) : Bool := p == .cs1 || p == .cs2 || p == .cs3 || p == .cs4 || p == .cs5 || p == .cs6

/-- The phases of an operation, those of its nested sequences among them; an instruction that runs no operation has none. -/
def phasesOf : Instr → Phase → Bool
  | .init, p =>
    p == .in1 || p == .in2 || p == .in3 || p == .in4 || p == .in5 || p == .in6 || p == .in7 || p == .in8 || p == .in9 ||
      p == .in10 || p == .in11 || isSrPhase p || isBwPhase p
  | .sendCommand _, p =>
    p == .sc1 || p == .sc2 || p == .sc3 || p == .sc4 || p == .sc5 || p == .sc6 || p == .sc7 || p == .sc8 || p == .sc9 ||
      p == .sc10 || p == .sc11 || isSrPhase p || isBtPhase p
  | .clkSupply _, p => isCsPhase p
  | .setBusWidth _, p => isBwPhase p
  | .setSdrMode, p => p == .sm1 || p == .sm2 || p == .sm3 || isCsPhase p
  | .setDdrMode, p => p == .dm1 || p == .dm2 || p == .dm3 || isCsPhase p
  | .modeEnable _, p => p == .me1
  | .changeFrequency _, p => p == .cf1 || p == .cf2 || p == .cf3 || isCsPhase p
  | .buildTable _ _, p => isBtPhase p
  | .softReset _, p => isSrPhase p
  | .respExtract _, p => p == .sc7
  | .errDecode, p => p == .sc9
  | .adma2Entry _ _ _, p => p == .bt2
  | .reserved7, _ | .reserved14, _ | .reserved15, _ | .pwrIrq, _ | .wordCmd _ _ _ _, _ | .wordTransmode _ _ _ _, _
  | .wordClk _ _, _ | .wordSwReset _ _ _, _ | .wordPwrAck _ _, _ | .wordStsClear _ _, _ => false

/-- Where a nested sequence in phase `p` of operation `i` goes back to: the one-deep return phase of R31. -/
def returnOf : Instr → Phase → Option (Phase × Nat)
  | .init, p => if isSrPhase p then some (.in2, 0) else if isBwPhase p then some (.in9, 0) else none
  | .sendCommand _, p => if isBtPhase p then some (.sc4, 1) else if isSrPhase p then some (.sc11, 0) else none
  | .setSdrMode, p => if isCsPhase p then some (.sm3, 1) else none
  | .setDdrMode, p => if isCsPhase p then some (.dm3, 1) else none
  | .changeFrequency _, p => if isCsPhase p then some (.cf3, 1) else none
  | .clkSupply _, _ | .setBusWidth _, _ | .modeEnable _, _ | .buildTable _ _, _ | .softReset _, _ | .respExtract _, _
  | .errDecode, _ | .reserved7, _ | .reserved14, _ | .reserved15, _ | .pwrIrq, _ | .wordCmd _ _ _ _, _
  | .wordTransmode _ _ _ _, _ | .wordClk _ _, _ | .wordSwReset _ _ _, _ | .wordPwrAck _ _, _ | .wordStsClear _ _, _
  | .adma2Entry _ _ _, _ => none

/-! ### The invariant, part by part -/

/-- Both views of system memory, and the set of bytes still to write back, keep their canonical form. -/
def MemoryInv (s : State) : Prop := s.mem.wf ∧ s.dev.wf ∧ addrsWf s.dirty

/-- The engine is between operations in UNINIT, IDLE or ABORTED with nothing nested, or runs one operation in one of its
phases, with the return phase that phase asks for. -/
def ControlInv (s : State) : Prop :=
  (s.home = .uninit ∨ s.home = .idle) ∧
  match s.cur with
  | none => (s.st = .uninit ∨ s.st = .idle ∨ s.st = .aborted) ∧ s.ret = none
  | some i => phasesOf i s.st = true ∧ s.ret = returnOf i s.st

/-- The fields of H a running operation goes on to read are written (10_state.md R71). -/
def RecordInv (s : State) : Prop :=
  (s.cur = some .init → s.st = .in3 ∨ s.st = .in4 ∨ s.st = .in5 ∨ s.st = .in6 → s.h.voltage.isSome) ∧
  (∀ f, s.cur = some (.clkSupply f) → s.h.baseClkRate.isSome) ∧
  (∀ f, s.cur = some (.changeFrequency f) →
    s.h.baseClkRate.isSome ∧ (s.st = .cf3 → s.pos ≠ 0 → s.work.inner.isSome)) ∧
  (s.cur = some .setSdrMode ∨ s.cur = some .setDdrMode → s.h.baseClkRate.isSome ∧ s.h.curClkRate.isSome)

/-- The phases in which a data command, or BUILD_TABLE itself, has built or is building a table. -/
def hasTable (s : State) : Bool :=
  match s.cur with
  | some (.sendCommand c) =>
    c.dataPresent &&
      (s.st == .bt2 || s.st == .bt3 || (s.st == .sc4 && s.pos != 0) || s.st == .sc5 || s.st == .sc6 || s.st == .sc7 ||
        s.st == .sc8 || s.st == .sc9 || s.st == .sc10 || s.st == .sc11 || isSrPhase s.st)
  | some (.buildTable _ _) => s.st == .bt2 || s.st == .bt3
  | _ => false

/-- The table of a data command is a live block of the allocator, and a lone entry has a table; the phases that only a
data command enters are entered by one; a table in the device's hands is that table, and outside a data command there is none (10_state.md R60, R402). -/
def TableInv (s : State) : Prop :=
  (hasTable s = true → ∃ t, s.work.table = some t ∧ (t, 8 * s.work.count) ∈ s.live) ∧
  (∀ addr len e, s.cur = some (.adma2Entry addr len e) → s.work.table.isSome) ∧
  (∀ c, s.cur = some (.sendCommand c) → (isBtPhase s.st || isSrPhase s.st || (s.st == .sc4 && s.pos != 0)) = true →
    c.dataPresent = true) ∧
  (s.st ≠ .aborted → ∀ t n, s.tableInFlight = some (t, n) →
    hasTable s = true ∧ s.work.table = some t ∧ n = 8 * s.work.count ∧ (∃ c, s.cur = some (.sendCommand c)))

/-- `f` is a rate the divider can give from base rate `b`: `b` itself, or `b / d` for an even divider up to MAX_DIV. -/
def Programmable (c : Cfg) (b f : Word) : Prop :=
  f = b ∨ ∃ d, d % 2 = 0 ∧ 2 ≤ d ∧ d ≤ c.maxDiv.toNat ∧ f.toNat = b.toNat / d

/-- The current rate is a value programmed into the hardware (10_state.md R22), and CLK_SUPPLY is on its way to one. -/
def RateInv (s : State) : Prop :=
  (∀ f, s.h.curClkRate = some f → ∃ b, s.h.baseClkRate = some b ∧ Programmable s.cfg b f) ∧
  (s.st = .cs2 ∨ s.st = .cs3 → s.h.baseClkRate = some s.work.base) ∧
  (s.st = .cs3 → s.work.freq = s.work.base → s.work.achieved = s.work.base) ∧
  (s.st = .cs4 ∨ s.st = .cs5 ∨ s.st = .cs6 → ∃ b, s.h.baseClkRate = some b ∧ Programmable s.cfg b s.work.achieved)

/-- What every step keeps. -/
structure Inv (s : State) : Prop where
  memory  : MemoryInv s
  control : ControlInv s
  record  : RecordInv s
  table   : TableInv s
  rate    : RateInv s

/-- What runs, and what waits on the port, is what a caller may ask for (30_encoding.md R121): a public operation or
CHANGE_FREQUENCY; no other internal sequence and no hardware-side word stands there by itself. -/
def PortInv (s : State) : Prop :=
  (∀ o, s.offer = some o → offerable o = true) ∧ (∀ i, s.cur = some i → isExposed i = true)

/-! ### The events the register table allows (10_state.md R40) -/

/-- The registers the engine may write (the "engine accesses" column). -/
def Reg.written : Reg → Bool
  | .arg2 | .blksz | .blkcnt | .arg | .transmode | .cmd | .hostCtrl1 | .pwrCtrl | .clkCtrl | .timeoutCtrl | .swReset
  | .nrmlIntSts | .nrmlIntStsEn | .errIntStsEn | .nrmlIntSigEn | .errIntSigEn | .hostCtrl2 | .admaAddr => true
  | .resp0 | .resp1 | .resp2 | .resp3 | .presentState | .errIntSts | .caps1 | .caps2 => false

/-- The registers the engine may read (the same column). -/
def Reg.isRead : Reg → Bool
  | .resp0 | .resp1 | .resp2 | .resp3 | .presentState | .hostCtrl1 | .clkCtrl | .swReset | .nrmlIntSts | .errIntSts
  | .hostCtrl2 | .caps1 | .caps2 => true
  | .arg2 | .blksz | .blkcnt | .arg | .transmode | .cmd | .pwrCtrl | .timeoutCtrl | .nrmlIntStsEn | .errIntStsEn
  | .nrmlIntSigEn | .errIntSigEn | .admaAddr => false

/-- An event the table of R40 allows: a register is read or written only where its row says so. -/
def Event.allowed : Event → Bool
  | .regRead r _ => r.isRead
  | .regWrite r v => r.written && (v &&& ~~~r.bits == 0)
  | .pwrRead r _ => r == .mask
  | .pwrWrite _ _ => true
  | .memWrite _ n _ => n == 2 || n == 4
  | .alloc _ _ _ | .free _ | .cacheClean _ _ | .cacheInvalidate _ _ | .delay _ | .irqUnmask _ | .eventArm | .eventSignal
  | .eventWait => true

end Sys2Proof.Machine
end

