-- ==== Sys2Proof/Certificates/Slice0/Obligations.lean ====
section
/-! DEFINITION. The statements for the provers: what the numbered rules say of each operation, of the encodings and of
the whole machine. A conclusion `exec i s = .next t` with `t` written as an update of `s` says that the instruction
completes, what it writes, and that it writes nothing else. -/

open Sys2Proof Sys2Proof.Machine

/-! ### Encodings -/

/-- Words written out from the spec's encodings (30_encoding.md R126 to R128, R135 to R137, R140, R156; the request words
are those of 95_test_vectors.md) decode to the instructions they stand for. The words of the internal sequences, the
left-aligned digit of RESP_EXTRACT and the digit order of the hardware words are the model's layout (log 9, 12). -/
def Obligations.DecodeOfSpecWords : Prop :=
  decodeAt .port [0x0] = .ok .init ∧
  decodeAt .port [0x1, 0x0,0x0,0x1,0x1, 0x0,0x0,0x0,0x0,0x1,0x0,0x0,0x0, 0x0,0x0,0x0,0x1, 0x9, 0x8,0x0,0x0,0x0,0x0,0x0,0x0,0x0,
    0x0,0x0,0x0,0x0,0x0,0x0,0x0,0x1] = .ok (.sendCommand ⟨17, 0x1000, 0x0001, true, 0, true, 0x80000000, 1⟩) ∧
  decodeAt .port [0x2, 0x0,0x0,0x0,0x6,0x1,0xA,0x8,0x0] = .ok (.clkSupply 400000) ∧
  decodeAt .port [0x3, 0x0,0x0,0x0,0x2] = .ok (.setBusWidth 2) ∧
  decodeAt .port [0x4] = .ok .setSdrMode ∧
  decodeAt .port [0x5] = .ok .setDdrMode ∧
  decodeAt .port [0x6, 0x0,0x1] = .ok (.modeEnable 1) ∧
  decodeAt .port [0x7] = .ok .reserved7 ∧
  decodeAt .sequence [0x8, 0x0,0x1,0x7,0xD,0x7,0x8,0x4,0x0] = .ok (.changeFrequency 25000000) ∧
  decodeAt .sequence [0x9, 0x8,0x0,0x0,0x0,0x0,0x0,0x0,0x0, 0x0,0x0,0x0,0x0,0x0,0x2,0x0,0x0] =
    .ok (.buildTable 0x80000000 512) ∧
  decodeAt .sequence [0xA, 0x0,0x6] = .ok (.softReset 6) ∧
  decodeAt .sequence [0xB, 0x4] = .ok (.respExtract 1) ∧
  decodeAt .sequence [0xC] = .ok .errDecode ∧
  decodeAt .sequence [0xD] = .ok .pwrIrq ∧
  decodeAt .cmd [0x2,0x2,0x1,0x1] = .ok (.wordCmd 17 0 true 2) ∧
  decodeAt .transmode [0xB,0x3,0x0,0x0] = .ok (.wordTransmode true true true true) ∧
  decodeAt .clk [0x1,0x0,0x2,0x0] = .ok (.wordClk 2 0) ∧
  decodeAt .swReset [0x6,0x0] = .ok (.wordSwReset true true false) ∧
  decodeAt .pwrAck [0x5,0x0,0x0,0x0,0x0,0x0,0x0,0x0] = .ok (.wordPwrAck true true) ∧
  decodeAt .stsClear [0x2,0x0,0x0,0x0] = .ok (.wordStsClear true false) ∧
  decodeAt .entry [0x3,0x2,0x0,0x0, 0x0,0x0,0x2,0x0, 0x0,0x0,0x0,0x0,0x0,0x0,0x0,0x8] = .ok (.adma2Entry 0x80000000 0x200 true)

/-- Decoding the word of a well-formed instruction, at the place it stands, gives the instruction back with every
operand. -/
def Obligations.DecodeEncodeAgree : Prop := ∀ i : Instr, i.wf = true → decodeAt i.place (encode i) = .ok i

/-- Whatever digits decode, they are the decoded instruction's own word, padded with zero digits; and the instruction
stands at the place it was read from. The zero padding, and that requests and sequences share one form, are the model's
layout (log 9, 12). -/
def Obligations.EncodeDecodeAgree : Prop :=
  ∀ (p : Place) (ds : List Digit) (i : Instr), decodeAt p ds = .ok i →
    (∃ n, ds = encode i ++ List.replicate n 0) ∧
      (i.place = p ∨ ((p = .port ∨ p = .sequence) ∧ (i.place = .port ∨ i.place = .sequence)))

/-- The words the engine assembles from its operands (30_encoding.md R126, R127, R128, R136, R141) are, in the default bits
and entry layout of Cfg, words of the opcode table's formats, with the operands in the fields the formats give them. -/
def Obligations.EngineWordsAreTableWords : Prop :=
  (∀ (c : Cmd) (rt : BitVec 2), c.index.toNat ≤ 63 →
    decodeAt .cmd (digitsLE 4 (cmdWord Bits.default c.index (cmdFlags Bits.default rt c.dataPresent c.cmdType)).toNat) =
      .ok (.wordCmd (c.index.setWidth 6) c.cmdType c.dataPresent rt)) ∧
  (∀ (blocks : Word) (read : Bool),
    decodeAt .transmode (digitsLE 4 (transModeWord Bits.default blocks read).toNat) =
      .ok (.wordTransmode (decide (1 < blocks.toNat)) read (decide (1 < blocks.toNat)) (decide (1 < blocks.toNat)))) ∧
  (∀ div : Word, div.toNat % 2 = 0 → div.toNat ≤ 2046 →
    decodeAt .clk (digitsLE 4 (clkWord Bits.default div).toNat) =
      .ok (.wordClk (BitVec.ofNat 8 (div.toNat / 2)) (BitVec.ofNat 2 (div.toNat / 2 / 256)))) ∧
  (∀ m : Word,
    decodeAt .pwrAck (digitsLE 8 (ackWord Bits.default m).toNat) = .ok (.wordPwrAck (m &&& 0xC != 0) (m &&& 0x3 != 0))) ∧
  (∀ (a : Word) (l : Half) (last : Bool),
    decodeAt .entry (digitsLE 16 (a.toNat * 2 ^ 32 + l.toNat * 2 ^ 16 + (entryAttr EntryLayout.default last).toNat)) =
      .ok (.adma2Entry a l last))

/-! ### The port and the step -/

/-- A step runs the decoded instruction: the caller's turn runs the operation that is running, or the instruction on offer
(the offer is taken); the handler's turn, where the line is delivered, runs `PWR_IRQ`. Around it the step only takes the
first entry off the schedule. A word the caller offers stands on the port where nothing runs and none waits; a word at
another place is refused, but for CHANGE_FREQUENCY (30_encoding.md R121; log 9). -/
def Obligations.StepRunsInstruction : Prop :=
  (∀ (s : State) (i : Instr) (r : List Turn), s.env.sched = .caller :: r → s.cur = some i →
    step s = exec i { s with env := { s.env with sched := r } }) ∧
  (∀ (s : State) (i : Instr) (o : Offer) (r : List Turn), s.env.sched = .caller :: r → s.cur = none → s.st ≠ .aborted →
    s.offer = some o → decodeAt o.place o.digits = .ok i → ¬(o.place = .port ∧ isInternal i = true) →
    (i = .pwrIrq → s.irq.pending = true ∧ s.irq.masked = false) →
    step s = exec i { s with offer := none, env := { s.env with sched := r } }) ∧
  (∀ (s : State) (r : List Turn), s.env.sched = .handler :: r → s.irq.pending = true → s.irq.masked = false →
    step s = exec .pwrIrq { s with env := { s.env with sched := r } }) ∧
  (∀ (s : State) (i : Instr), s.env.sched = [] → s.cur = some i → s.irq.pending = false → step s = exec i s) ∧
  (∀ (s : State) (o : Offer) (r : List Turn), s.env.sched = .outside (.offer o) :: r → s.cfg.codes = Codes.default →
    s.cur = none → s.offer = none → s.st ≠ .aborted →
    ((o.place = .port ∨ o.place = .sequence ∧ ∃ f, decodeAt .sequence o.digits = .ok (.changeFrequency f)) →
      step s = .next { s with offer := some o, env := { s.env with sched := r } }) ∧
    (o.place ≠ .port → (∀ f, decodeAt o.place o.digits ≠ .ok (.changeFrequency f)) → step s = .refused .notARequest))

/-- A word loaded with `withFetchWord` is the instruction the very next step runs, on the state the load made ready. -/
def Obligations.LoadedWordRunsNext : Prop :=
  ∀ (s : State) (nbits w : Nat) (i : Instr), s.st ≠ .aborted → decodeTableWord nbits w = some i →
    step (s.withFetchWord nbits w) = exec i { loadFor i s with cur := none, ret := none, offer := none }

/-- What the outside does between two events (20_memory.md R95) leaves the engine alone: phase, operation, working
registers, H, event, registers and record stay; the slots, the transaction in flight, the offer, the line and memory move
only by the move that names them, memory only at the byte named. A refill undoes no store the cache has still to write
back (R96; log 17). -/
def Obligations.OutsideMovesFrame : Prop :=
  ∀ (s t : State) (m : Move) (r : List Turn), s.env.sched = .outside m :: r → step s = .next t →
    t = { s with
      slots := t.slots, irq := { s.irq with pending := t.irq.pending }, mem := t.mem, dev := t.dev, dirty := t.dirty
      inFlight := t.inFlight, offer := t.offer, env := { s.env with sched := r } } ∧
    (t.irq.pending = true ↔ s.irq.pending = true ∨ m = .raiseLine) ∧
    ((∀ q, m ≠ .setSlots q) → t.slots = s.slots) ∧ (∀ q, m = .setSlots q → t.slots = q) ∧
    (m ≠ .endTransaction → t.inFlight = s.inFlight) ∧ (m = .endTransaction → t.inFlight = none) ∧
    ((∀ o, m ≠ .offer o) → t.offer = s.offer) ∧
    (∀ a : Nat, (∀ x b, m = .cpuWrite x b → a ≠ x.toNat) → (∀ x, m = .refill x → a ≠ x.toNat) → t.mem.read a = s.mem.read a) ∧
    (∀ a : Nat, (∀ x b, m = .deviceWrite x b → a ≠ x.toNat) → (∀ x, m = .evict x → a ≠ x.toNat) → t.dev.read a = s.dev.read a) ∧
    (∀ x, m = .refill x → x.toNat ∈ s.dirty → t.mem = s.mem) ∧
    (∀ a : Nat, a ∈ t.dirty ↔ (a ∈ s.dirty ∧ ∀ x, m = .evict x → a ≠ x.toNat) ∨ ∃ x b, m = .cpuWrite x b ∧ a = x.toNat)

/-- IDLE accepts every operation whose operands are in its domain and whose fields of H are written: it is latched, and
the engine stands at its first phase (10_state.md R25, R31). Nothing else changes. With CONFIG_OPS off operations 3 to 6
are refused (00_scope.md R8; U12), by that name though another ground may hold (log 36). That SOFT_RESET, RESP_EXTRACT and ERR_DECODE run alone is log 9, that the last two stand
in SC.7 and SC.9 log 31, and that SOFT_RESET takes every mask log 35. -/
def Obligations.IdleAcceptsOperations : Prop :=
  ∀ s : State, Ready s →
    exec .init s = .next { s with cur := some .init, st := .in1, pos := 0, ret := none, home := .idle, work := Work.blank } ∧
    (∀ c : Cmd, c.index.toNat ≤ 63 → c.dataPresent = false →
      exec (.sendCommand c) s =
        .next { s with cur := some (.sendCommand c), st := .sc1, pos := 0, ret := none, home := .idle, work := Work.blank }) ∧
    (∀ f b : Word, s.h.baseClkRate = some b →
      exec (.clkSupply f) s =
        .next { s with cur := some (.clkSupply f), st := .cs1, pos := 0, ret := none, home := .idle,
                       work := { Work.blank with freq := f } } ∧
      exec (.changeFrequency f) s =
        .next { s with cur := some (.changeFrequency f), st := .cf1, pos := 0, ret := none, home := .idle,
                       work := Work.blank }) ∧
    (s.cfg.configOps = true →
      (∀ w : Half, exec (.setBusWidth w) s =
        .next { s with cur := some (.setBusWidth w), st := .bw1, pos := 0, ret := none, home := .idle,
                       work := { Work.blank with width := w } }) ∧
      (∀ b f : Word, s.h.baseClkRate = some b → s.h.curClkRate = some f →
        exec .setSdrMode s =
          .next { s with cur := some .setSdrMode, st := .sm1, pos := 0, ret := none, home := .idle, work := Work.blank } ∧
        exec .setDdrMode s =
          .next { s with cur := some .setDdrMode, st := .dm1, pos := 0, ret := none, home := .idle, work := Work.blank }) ∧
      (∀ g : Byte, exec (.modeEnable g) s =
        .next { s with cur := some (.modeEnable g), st := .me1, pos := 0, ret := none, home := .idle, work := Work.blank })) ∧
    (s.cfg.configOps = false →
      (∀ w : Half, exec (.setBusWidth w) s = .refused .configOpsOff) ∧ exec .setSdrMode s = .refused .configOpsOff ∧
      exec .setDdrMode s = .refused .configOpsOff ∧ (∀ g : Byte, exec (.modeEnable g) s = .refused .configOpsOff)) ∧
    (∀ m : Byte, exec (.softReset m) s =
      .next { s with cur := some (.softReset m), st := .sr1, pos := 0, ret := none, home := .idle,
                     work := { Work.blank with mask := m } }) ∧
    (∀ rt : BitVec 2, exec (.respExtract rt) s =
      .next { s with cur := some (.respExtract rt), st := .sc7, pos := 0, ret := none, home := .idle,
                     work := { Work.blank with rt := rt } }) ∧
    exec .errDecode s =
      .next { s with cur := some .errDecode, st := .sc9, pos := 0, ret := none, home := .idle, work := Work.blank }

/-- UNINIT accepts INIT and MODE_ENABLE, and refuses by name whatever else a caller can ask for: the other five public
operations, and CHANGE_FREQUENCY, which the model exposes (log 9). MODE_ENABLE accepted there goes back there
(70_reset_and_hazards.md R406), and with CONFIG_OPS off is refused (U12). Which name a request gets against which several
grounds speak is log 36; that INIT is accepted whatever HC_MODE holds is log 38. -/
def Obligations.UninitAcceptance : Prop :=
  ∀ s : State, s.cur = none → s.st = .uninit → s.blockGone = false →
    exec .init s = .next { s with cur := some .init, st := .in1, pos := 0, ret := none, home := .idle, work := Work.blank } ∧
    (∀ g : Byte, s.cfg.configOps = true →
      exec (.modeEnable g) s =
        .next { s with cur := some (.modeEnable g), st := .me1, pos := 0, ret := none, home := .uninit, work := Work.blank }) ∧
    (∀ g : Byte, s.cfg.configOps = false → exec (.modeEnable g) s = .refused .configOpsOff) ∧
    (∀ i : Instr, isExposed i = true → i ≠ .init → (∀ g, i ≠ .modeEnable g) → exec i s = .refused .notAcceptedInUninit)

/-- A second request has no step while an operation runs: offered on the port it is refused, and so is a turn of another
operation (20_memory.md R81; U1), CHANGE_FREQUENCY among them (log 9). That it is refused when offered is log 20, and that
this name comes before every other ground's is log 36. -/
def Obligations.SecondRequestRefused : Prop :=
  (∀ (s : State) (i j : Instr), s.cur = some j → i ≠ j → isExposed i = true → exec i s = .refused .portBusy) ∧
  (∀ (s : State) (j : Instr) (o : Offer) (r : List Turn), s.env.sched = .outside (.offer o) :: r → s.cur = some j →
    s.st ≠ .aborted → step s = .refused .portBusy)

/-- The operand domain (10_state.md R26 with 20_memory.md R88): inside it SEND_COMMAND is accepted, outside it the request
is refused by a name of the operand domain. -/
def Obligations.OperandDomainOfSendCommand : Prop :=
  ∀ (s : State) (c : Cmd), Ready s →
    (((c.index.toNat ≤ 63 ∧
        (c.dataPresent = true →
          1 ≤ c.blockCount.toNat ∧ c.blockCount.toNat ≤ 65535 ∧
          c.buf.toNat + c.blockCount.toNat * s.cfg.blockSize.toNat ≤ 2 ^ 32 ∧ c.buf.toNat % 4 = 0 ∧
          (isRead s.cfg.codes c = true →
            c.buf.toNat % s.cfg.cacheLine = 0 ∧ c.blockCount.toNat * s.cfg.blockSize.toNat % s.cfg.cacheLine = 0))) →
      exec (.sendCommand c) s =
        .next { s with cur := some (.sendCommand c), st := .sc1, pos := 0, ret := none, home := .idle, work := Work.blank }) ∧
    (¬(c.index.toNat ≤ 63 ∧
        (c.dataPresent = true →
          1 ≤ c.blockCount.toNat ∧ c.blockCount.toNat ≤ 65535 ∧
          c.buf.toNat + c.blockCount.toNat * s.cfg.blockSize.toNat ≤ 2 ^ 32 ∧ c.buf.toNat % 4 = 0 ∧
          (isRead s.cfg.codes c = true →
            c.buf.toNat % s.cfg.cacheLine = 0 ∧ c.blockCount.toNat * s.cfg.blockSize.toNat % s.cfg.cacheLine = 0))) →
      ∃ e, exec (.sendCommand c) s = .refused (.outsideDomain e)))

/-- BUILD_TABLE is refused for length 0 and for a range that passes 2^32 (42_descriptor_builder.md R227), and accepted
otherwise. That it is accepted alone at all, from IDLE, is the model's choice (log 9; R121). -/
def Obligations.OperandDomainOfBuildTable : Prop :=
  ∀ (s : State) (addr len : Word), Ready s →
    (len = 0 → exec (.buildTable addr len) s = .refused (.outsideDomain .lengthZero)) ∧
    (len ≠ 0 → 2 ^ 32 < addr.toNat + len.toNat →
      exec (.buildTable addr len) s = .refused (.outsideDomain .bufferWraps)) ∧
    (len ≠ 0 → addr.toNat + len.toNat ≤ 2 ^ 32 →
      exec (.buildTable addr len) s =
        .next { s with cur := some (.buildTable addr len), st := .bt1, pos := 0, ret := none, home := .idle,
                       work := { Work.blank with addr := addr, len := len } })

/-- An operation that reads a field of H no operation has written faults when it is offered; it does not read zero
(10_state.md R71). That of two unwritten fields a mode change names the current rate, as R71 does, is log 36. -/
def Obligations.UnwrittenFieldFaults : Prop :=
  ∀ s : State, Ready s →
    (s.h.baseClkRate = none → ∀ f : Word, exec (.clkSupply f) s = .fault (.unwrittenField .baseClkRate) ∧
      exec (.changeFrequency f) s = .fault (.unwrittenField .baseClkRate)) ∧
    (s.h.curClkRate = none → s.cfg.configOps = true →
      exec .setSdrMode s = .fault (.unwrittenField .curClkRate) ∧ exec .setDdrMode s = .fault (.unwrittenField .curClkRate))

/-- A request whose operation code is 7 to 15 is not a public operation (30_encoding.md R123): whatever word with such a
code stands on the request port is refused by name, and so no next state, changed or not, is given. That a reserved code
gets the name reservedCode in every state, whatever other ground speaks against it, is log 36. -/
def Obligations.ReservedAndInternalCodesRefused : Prop :=
  (∀ s : State, exec .reserved7 s = .refused (.reservedCode 7) ∧ exec .reserved14 s = .refused (.reservedCode 14) ∧
    exec .reserved15 s = .refused (.reservedCode 15)) ∧
  (∀ (s : State) (op : Digit) (rest : List Digit) (r : List Turn), 7 ≤ op.toNat → s.env.sched = .caller :: r → s.cur = none →
    s.st ≠ .aborted → s.offer = some ⟨.port, op :: rest⟩ →
    ∃ e, step s = .refused e ∧
      (e = .internalCode ∨ e = .reservedCode op.toNat ∨ ∃ d, e = .undecodable d))

/-- `return k` (00_scope.md R11; 60_exceptions.md R377): an operation's own return delivers the status, and the engine is
back where it was accepted from with no working register left (10_state.md R28); a nested sequence hands its status to its
caller. A sequence with no status goes back to its caller with nothing else changed; run alone (log 9) it ends without a
status, its output, where it has one, in the record. The blank values are log 5. -/
def Obligations.ReturnFromOperation : Prop :=
  ∀ (s : State) (k : Status) (o : Record),
    (s.ret = none →
      finish k s = { s with st := s.home, pos := 0, cur := none, work := Work.blank, trace := .answer k :: s.trace } ∧
      leave s = { s with st := s.home, pos := 0, cur := none, work := Work.blank } ∧
      handOver o s = { s with st := s.home, pos := 0, cur := none, work := Work.blank, trace := o :: s.trace }) ∧
    (∀ p q, s.ret = some (p, q) →
      finish k s = { s with st := p, pos := q, ret := none, work := { s.work with inner := some k } } ∧
      leave s = { s with st := p, pos := q, ret := none } ∧ handOver o s = { s with st := p, pos := q, ret := none })

/-! ### The clock divider controller (41_clock_controller.md) -/

/-- CS.1 (R191): a target above the base rate ends the operation with CLOCK_UNSUPPORTED, no register access and H
unchanged; any other goes on. The comparison is unsigned and strict. The rule holds where CLK_SUPPLY is nested too. -/
def Obligations.ClkRangeCheck : Prop :=
  ∀ (s : State) (i : Instr) (b : Word), runsClock i = true → s.cur = some i → s.st = .cs1 → s.h.baseClkRate = some b →
    (b.toNat < s.work.freq.toNat →
      exec i s = .next (finish .clockUnsupported s) ∧ (finish .clockUnsupported s).ctl = s.ctl ∧
      (finish .clockUnsupported s).h = s.h ∧ callerRecords (finish .clockUnsupported s).trace =
        (if s.ret = none then [.answer .clockUnsupported] else []) ++ callerRecords s.trace) ∧
    (s.work.freq.toNat ≤ b.toNat →
      exec i s = .next { s with st := .cs2, pos := 0, work := { s.work with base := b } })

/-- CS.2 and CS.3 (R192, R193): divider 0 exactly where the target is the base rate, and CS.3 then only goes on; else the
smallest even divider up to MAX_DIV whose rate is not above the target, and CLOCK_UNSUPPORTED where there is none (R193's
decision D7). No register is touched. -/
def Obligations.ClkDividerChoice : Prop :=
  ∀ (s : State) (i : Instr), runsClock i = true → s.cur = some i →
    (s.st = .cs2 → s.work.freq = s.work.base →
      exec i s = .next { s with st := .cs3, pos := 0, work := { s.work with div := 0, achieved := s.work.base } }) ∧
    (s.st = .cs2 → s.work.freq ≠ s.work.base → exec i s = .next { s with st := .cs3, pos := 0 }) ∧
    (s.st = .cs3 → s.work.freq = s.work.base → exec i s = .next { s with st := .cs4, pos := 0 }) ∧
    (∀ d, s.st = .cs3 → s.work.freq ≠ s.work.base →
      SelectsDivider s.work.base.toNat s.work.freq.toNat s.cfg.maxDiv.toNat d →
      exec i s =
        .next { s with
          st := .cs4, pos := 0
          work := { s.work with div := BitVec.ofNat 32 d, achieved := BitVec.ofNat 32 (s.work.base.toNat / d) } }) ∧
    (s.st = .cs3 → s.work.freq ≠ s.work.base →
      (∀ d, ¬ SelectsDivider s.work.base.toNat s.work.freq.toNat s.cfg.maxDiv.toNat d) →
      exec i s = .next (finish .clockUnsupported s))

/-- The closed form of R193 of what the machine's search answers: with `d0 = B / (freq + 1) + 1`, the divider is `max 2` of
`d0` rounded up to even, and the search succeeds exactly when that is at most MAX_DIV. -/
def Obligations.DividerClosedForm : Prop :=
  ∀ (b freq maxDiv d : Nat),
    findDiv b freq maxDiv = some d ↔ d = max 2 ((b / (freq + 1) + 1 + 1) / 2 * 2) ∧ d ≤ maxDiv

/-- R200: every selected rate is at most the target and is the largest an even divider gives that does not exceed it; and
asking again for the selected rate selects the same divider. -/
def Obligations.DividerSearchProperties : Prop :=
  ∀ (b freq maxDiv d : Nat), findDiv b freq maxDiv = some d →
    SelectsDivider b freq maxDiv d ∧ b / d ≤ freq ∧
    (∀ e, e % 2 = 0 → 2 ≤ e → e ≤ maxDiv → b / e ≤ freq → b / e ≤ b / d) ∧
    findDiv b (b / d) maxDiv = some d

/-- CS.4 (R194, 30_encoding.md R128): one 16-bit write of the clock word for `N = div / 2`, with CLK_EN clear; the volatile
bit of CLK_CTRL stays as it was (10_state.md R40, R45; log 14). -/
def Obligations.ClkWordWrite : Prop :=
  ∀ (s : State) (i : Instr), Standard s → runsClock i = true → s.cur = some i → s.st = .cs4 →
    (ruleClkWord s.work.div.toNat &&& 0x0004 = 0) ∧
    exec i s =
      .next { s with
        st := .cs5, pos := 0
        work := { s.work with clk := (ruleClkWord s.work.div.toNat).setWidth 16, spin := 0 }
        ctl := s.ctl.put .clkCtrl (ruleClkWord s.work.div.toNat ||| (s.ctl.get .clkCtrl &&& 0x0002))
        trace := .caller (.regWrite .clkCtrl (ruleClkWord s.work.div.toNat)) :: s.trace }

/-- CS.5, the spin (R195, 70_reset_and_hazards.md R413): one read of CLK_CTRL a step until CLK_STABLE reads 1, whose value
is kept; without it the engine stays in the phase; after SPIN_BOUND reads, where that is finite, FatalAbort. -/
def Obligations.ClkStableSpin : Prop :=
  ∀ (s : State) (i : Instr), runsClock i = true → s.cur = some i → s.st = .cs5 → s.pos = 0 →
    (MaySpin s → readValue .clkCtrl s &&& s.cfg.bits.clkStable.setWidth 32 ≠ 0 →
      exec i s = .next { regRead .clkCtrl s with pos := 1, work := { s.work with tmp := readValue .clkCtrl s } }) ∧
    (MaySpin s → readValue .clkCtrl s &&& s.cfg.bits.clkStable.setWidth 32 = 0 →
      exec i s = .next { regRead .clkCtrl s with work := { s.work with spin := s.work.spin + 1 } }) ∧
    (∀ b, s.cfg.spinBound = some b → b ≤ s.work.spin →
      exec i s = .next { s with st := .aborted, pos := 0, ret := none, cur := none })

/-- CS.5, the enable, and CS.6 (R196, R197): the value kept is written back with CLK_EN, and last of all the achieved rate
is recorded and SUCCESS returned. -/
def Obligations.ClkEnableAndRecord : Prop :=
  ∀ (s : State) (i : Instr), runsClock i = true → s.cur = some i →
    (s.st = .cs5 → s.pos = 1 →
      exec i s = .next (goTo .cs6 0 (regWrite .clkCtrl (s.work.tmp ||| s.cfg.bits.clkEn.setWidth 32) s))) ∧
    (s.st = .cs6 →
      exec i s = .next (finish .success { s with h := { s.h with curClkRate := some s.work.achieved } }))

/-- A whole CLK_SUPPLY (R190), whatever number of reads the clock takes to settle: the events are the clock word, the
reads, and the last read with CLK_EN; the rate recorded is that of the selected divider; nothing else changes. -/
def Obligations.ClkSupplyRun : Prop :=
  ∀ (s : State) (freq b : Word) (div : Nat) (busy : List Word) (v : Word) (rest : List Word),
    Standard s → Ready s → s.h.baseClkRate = some b → s.cfg.spinBound = none →
    (freq = b ∧ div = 0 ∨ freq.toNat < b.toNat ∧ SelectsDivider b.toNat freq.toNat s.cfg.maxDiv.toNat div) →
    s.env.reads = busy ++ v :: rest → (∀ x ∈ busy, x &&& 0x0002 = 0) → v &&& 0x0002 ≠ 0 →
    ∃ t : State,
      execs (busy.length + 8) (.clkSupply freq) s = .next t ∧
      t = { s with
        st := .idle, pos := 0, ret := none, home := .idle, cur := none, work := Work.blank
        h := { s.h with curClkRate := some (if div = 0 then b else BitVec.ofNat 32 (b.toNat / div)) }
        ctl := t.ctl, env := t.env
        trace :=
          .answer .success :: .caller (.regWrite .clkCtrl (ruleClkWord div ||| 0x0006)) ::
            .caller (.regRead .clkCtrl (ruleClkWord div ||| 0x0002)) ::
            (List.replicate busy.length (.caller (.regRead .clkCtrl (ruleClkWord div))) ++
              .caller (.regWrite .clkCtrl (ruleClkWord div)) :: s.trace) } ∧
      t.ctl.get .clkCtrl = ruleClkWord div ||| 0x0006 ∧
      (∀ r, r ≠ .clkCtrl → t.ctl.get r = s.ctl.get r ∧ t.ctl.known r = s.ctl.known r) ∧
      t.env.reads = rest ∧ t.env.allocs = s.env.allocs ∧ t.env.sched = s.env.sched

/-- CHANGE_FREQUENCY (R199): one read of PRESENT_STATE, BUS_BUSY with no write where a line is active; CLK_EN cleared by
read-modify-write; then CLK_SUPPLY, whose status is handed on. -/
def Obligations.ChangeFrequencySteps : Prop :=
  ∀ (s : State) (f : Word),
    (At (.changeFrequency f) .cf1 0 s → readValue .presentState s &&& s.cfg.bits.stateCmdDat ≠ 0 →
      exec (.changeFrequency f) s = .next (finish .busBusy (regRead .presentState s))) ∧
    (At (.changeFrequency f) .cf1 0 s → readValue .presentState s &&& s.cfg.bits.stateCmdDat = 0 →
      exec (.changeFrequency f) s = .next { regRead .presentState s with st := .cf2, pos := 0 }) ∧
    (At (.changeFrequency f) .cf2 0 s →
      exec (.changeFrequency f) s =
        .next { regRead .clkCtrl s with pos := 1, work := { s.work with tmp := readValue .clkCtrl s } }) ∧
    (At (.changeFrequency f) .cf2 1 s →
      exec (.changeFrequency f) s = .next (goTo .cf3 0 (regWrite .clkCtrl (s.work.tmp &&& ~~~(s.cfg.bits.clkEn.setWidth 32)) s))) ∧
    (At (.changeFrequency f) .cf3 0 s →
      exec (.changeFrequency f) s =
        .next { s with st := .cs1, pos := 0, ret := some (.cf3, 1), work := { s.work with freq := f } }) ∧
    (∀ k, At (.changeFrequency f) .cf3 1 s → s.work.inner = some k →
      exec (.changeFrequency f) s = .next (finish k s))

/-! ### The descriptor builder (42_descriptor_builder.md) -/

/-- BT.1 (R220, R221, R224): one allocation of `8 * count` bytes, whatever the allocator answers. An address that meets its
contract is taken: the block is live (and, with more than one entry, zero). `fail` is fatal: ABORTED, no table, no status. -/
def Obligations.TableAllocation : Prop :=
  ∀ (s : State) (i : Instr), runsTable i = true → s.cur = some i → s.st = .bt1 →
    (∀ t : Word, Answers s (some t) →
      t.toNat % s.cfg.descAlign = 0 → t.toNat + 8 * ruleCount s.cfg.maxLine.toNat s.work.len.toNat ≤ 2 ^ 32 →
      (t.toNat + 8 * ruleCount s.cfg.maxLine.toNat s.work.len.toNat ≤ s.work.addr.toNat ∨ s.work.addr.toNat + s.work.len.toNat ≤ t.toNat) →
      (∀ b ∈ s.live, t.toNat + 8 * ruleCount s.cfg.maxLine.toNat s.work.len.toNat ≤ b.1.toNat ∨ b.1.toNat + b.2 ≤ t.toNat) →
      exec i s =
        .next { s with
          st := .bt2, pos := 0
          work := { s.work with
            table := some t, count := ruleCount s.cfg.maxLine.toNat s.work.len.toNat, idx := 0, rem := s.work.len }
          live := (t, 8 * ruleCount s.cfg.maxLine.toNat s.work.len.toNat) :: s.live
          mem := if 1 < ruleCount s.cfg.maxLine.toNat s.work.len.toNat
            then s.mem.fillZero t (8 * ruleCount s.cfg.maxLine.toNat s.work.len.toNat) else s.mem
          dirty := if 1 < ruleCount s.cfg.maxLine.toNat s.work.len.toNat
            then addrAddRange s.dirty t (8 * ruleCount s.cfg.maxLine.toNat s.work.len.toNat) else s.dirty
          env := { s.env with allocs := s.env.allocs.tail, draws := s.env.draws + 1 }
          trace := .caller (.alloc (8 * ruleCount s.cfg.maxLine.toNat s.work.len.toNat) s.cfg.descAlign (some t)) :: s.trace }) ∧
    (Answers s none →
      exec i s =
        .next { s with
          st := .aborted, pos := 0, ret := none, cur := none
          env := { s.env with allocs := s.env.allocs.tail, draws := s.env.draws + 1 }
          trace := .caller (.alloc (8 * ruleCount s.cfg.maxLine.toNat s.work.len.toNat) s.cfg.descAlign none) :: s.trace })

/-- BT.2 and BT.3 (R220, R223): the three fields of an entry in their order, then the next entry, or the one CacheClean over
the whole table and the return, which run alone hands the address over (log 9). Each store is one event, changes the bytes
of its field, little-endian, and no other byte. In the default layout of an entry (R140, R141). -/
def Obligations.TableEntrySteps : Prop :=
  ∀ (s : State) (i : Instr) (t : Word), s.cfg.entry = EntryLayout.default → runsTable i = true → s.cur = some i →
    s.work.table = some t →
    (s.st = .bt2 → s.pos = 0 → ∃ u,
      exec i s = .next u ∧
      u = { s with
        pos := 1, mem := u.mem, dirty := u.dirty
        trace := .caller (.memWrite (entryAddr t s.work.idx 4) 4 s.work.addr) :: s.trace } ∧
      Stored (entryAddr t s.work.idx 4) 4 s.work.addr s u) ∧
    (∀ v : Word, v.toNat = (if s.work.idx + 1 < s.work.count then s.cfg.maxLine else s.work.rem).toNat % 2 ^ 16 →
      s.st = .bt2 → s.pos = 1 → ∃ u,
      exec i s = .next u ∧
      u = { s with
        pos := 2, mem := u.mem, dirty := u.dirty
        trace := .caller (.memWrite (entryAddr t s.work.idx 2) 2 v) :: s.trace } ∧
      Stored (entryAddr t s.work.idx 2) 2 v s u) ∧
    (s.st = .bt2 → s.pos = 2 → s.work.idx + 1 < s.work.count → ∃ u,
      exec i s = .next u ∧
      u = { s with
        pos := 0, mem := u.mem, dirty := u.dirty
        work := { s.work with
          idx := s.work.idx + 1, addr := s.work.addr + s.cfg.maxLine, rem := s.work.rem - s.cfg.maxLine }
        trace := .caller (.memWrite (entryAddr t s.work.idx 0) 2 0x0021) :: s.trace } ∧
      Stored (entryAddr t s.work.idx 0) 2 0x0021 s u) ∧
    (s.st = .bt2 → s.pos = 2 → s.work.idx + 1 = s.work.count → ∃ u,
      exec i s = .next u ∧
      u = { s with
        st := .bt3, pos := 0, mem := u.mem, dirty := u.dirty
        trace := .caller (.memWrite (entryAddr t s.work.idx 0) 2 0x0023) :: s.trace } ∧
      Stored (entryAddr t s.work.idx 0) 2 0x0023 s u) ∧
    (s.st = .bt3 →
      exec i s = .next (handOver (.table t) (cacheClean t (8 * s.work.count) s)) ∧
      ∀ a, (cacheClean t (8 * s.work.count) s).dev.read a =
        if t.toNat ≤ a ∧ a < t.toNat + 8 * s.work.count then s.mem.read a else s.dev.read a)

/-- A whole BUILD_TABLE (R220 to R225): `count` entries at consecutive addresses, entry `i` the 64-bit value of its address,
length and attribute, seen alike by the CPU and the device; exactly the listed events; every byte outside the table as
before; nothing else of the machine changed. That it runs alone, hands its table over in the record and leaves the block
live is log 9. In the default layout of an entry (R140, R141). -/
def Obligations.BuildTableRun : Prop :=
  ∀ (s : State) (addr len t : Word) (rest : List (Option Word)) (lineMax n : Nat),
    s.cfg.entry = EntryLayout.default → Ready s → 0 < len.toNat → addr.toNat + len.toNat ≤ 2 ^ 32 →
    lineMax = s.cfg.maxLine.toNat → 1 ≤ lineMax → lineMax ≤ 65536 → n = ruleCount lineMax len.toNat →
    s.env.allocs = some t :: rest → t.toNat % s.cfg.descAlign = 0 → t.toNat + 8 * n ≤ 2 ^ 32 →
    (t.toNat + 8 * n ≤ addr.toNat ∨ addr.toNat + len.toNat ≤ t.toNat) →
    (∀ b ∈ s.live, t.toNat + 8 * n ≤ b.1.toNat ∨ b.1.toNat + b.2 ≤ t.toNat) →
    ∃ u : State,
      execs (3 * n + 3) (.buildTable addr len) s = .next u ∧
      u = { s with
        st := .idle, pos := 0, ret := none, home := .idle, cur := none, work := Work.blank
        mem := u.mem, dev := u.dev, dirty := u.dirty, live := (t, 8 * n) :: s.live
        env := { s.env with allocs := rest, draws := s.env.draws + 1 }
        trace := .table t :: (tableRecords lineMax addr t len.toNat ++
          .caller (.alloc (8 * n) s.cfg.descAlign (some t)) :: s.trace) } ∧
      (∀ i k, i < n → k < 8 →
        u.mem.read (t.toNat + 8 * i + k) = some ((ruleEntry lineMax addr len.toNat i >>> (8 * k)).setWidth 8)) ∧
      (∀ a, t.toNat ≤ a ∧ a < t.toNat + 8 * n → u.dev.read a = u.mem.read a ∧ a ∉ u.dirty) ∧
      (∀ a, ¬(t.toNat ≤ a ∧ a < t.toNat + 8 * n) →
        u.mem.read a = s.mem.read a ∧ u.dev.read a = s.dev.read a ∧ (a ∈ u.dirty ↔ a ∈ s.dirty))

/-- The invariants of a table (R225), of the count and the lengths the machine computes, entry `i` with `len - i * maxLine`
bytes still to cover: every logical length is from 1 to the per-entry maximum, their sum is the requested length exactly,
the entries before `i` cover `i * maxLine`, one entry suffices exactly where the length fits one line, and a multiple of
the line fills its last entry whole. -/
def Obligations.EntryLengthsTile : Prop :=
  ∀ (maxLine len : Word) (n : Nat) (L : Nat → Nat), 1 ≤ maxLine.toNat → 1 ≤ len.toNat →
    n = entryCount maxLine.toNat len.toNat →
    (∀ i, L i = (entryLen maxLine n i (len - BitVec.ofNat 32 (i * maxLine.toNat))).toNat) →
    (∀ i, i < n → 1 ≤ L i ∧ L i ≤ maxLine.toNat) ∧
    ((List.range n).map L).sum = len.toNat ∧
    (∀ i, i < n → ((List.range i).map L).sum = i * maxLine.toNat) ∧
    (n = 1 ↔ len.toNat ≤ maxLine.toNat) ∧
    (∀ k, 1 < k → len.toNat = k * maxLine.toNat → n = k ∧ L (k - 1) = maxLine.toNat)

/-! ### SOFT_RESET (43_command_engine.md R272) -/

/-- SR.1 writes the mask; SR.2 reads until every bit of the mask reads 0 in one read, other bits ignored, and stays in the
phase until then; after SPIN_BOUND reads, where that is finite, FatalAbort. The rule holds where SOFT_RESET is nested. -/
def Obligations.SoftResetSteps : Prop :=
  ∀ (s : State) (i : Instr), runsReset i = true → s.cur = some i →
    (s.st = .sr1 →
      exec i s = .next (goTo .sr2 0 (regWrite .swReset (s.work.mask.setWidth 32) { s with work := { s.work with spin := 0 } }))) ∧
    (s.st = .sr2 → MaySpin s → readValue .swReset s &&& s.work.mask.setWidth 32 = 0 →
      exec i s = .next (leave (regRead .swReset s))) ∧
    (s.st = .sr2 → MaySpin s → readValue .swReset s &&& s.work.mask.setWidth 32 ≠ 0 →
      exec i s = .next { regRead .swReset s with work := { s.work with spin := s.work.spin + 1 } }) ∧
    (∀ b, s.st = .sr2 → s.cfg.spinBound = some b → b ≤ s.work.spin →
      exec i s = .next { s with st := .aborted, pos := 0, ret := none, cur := none })

/-! ### SEND_COMMAND (43_command_engine.md) -/

/-- SC.1 (R250): each read that shows activity is followed by a delay and counted; at IDLE_RETRY_MAX the operation returns
BUS_BUSY without reading again; idle lines lead to SC.2. No register is written. -/
def Obligations.SendIdleCheck : Prop :=
  ∀ (s : State) (c : Cmd),
    (At (.sendCommand c) .sc1 0 s → readValue .presentState s &&& s.cfg.bits.stateCmdDat = 0 →
      exec (.sendCommand c) s = .next { regRead .presentState s with st := .sc2, pos := 0 }) ∧
    (At (.sendCommand c) .sc1 0 s → readValue .presentState s &&& s.cfg.bits.stateCmdDat ≠ 0 →
      exec (.sendCommand c) s = .next { regRead .presentState s with st := .sc1, pos := 1 }) ∧
    (At (.sendCommand c) .sc1 1 s → s.work.n + 1 ≠ s.cfg.idleRetryMax →
      exec (.sendCommand c) s =
        .next { s with pos := 0, work := { s.work with n := s.work.n + 1 },
                       trace := .caller (.delay s.cfg.idleSpacingUs) :: s.trace }) ∧
    (At (.sendCommand c) .sc1 1 s → s.ret = none → s.work.n + 1 = s.cfg.idleRetryMax →
      exec (.sendCommand c) s =
        .next { s with st := s.home, pos := 0, cur := none, work := Work.blank,
                       trace := .answer .busBusy :: .caller (.delay s.cfg.idleSpacingUs) :: s.trace })

/-- SC.2 and SC.3 (R252, R254, 30_encoding.md R130, R131): the seven tags map to their lengths, any other ends the
operation with INVALID_ARGUMENT before a register is written; then one write of the timeout value, whatever the command. -/
def Obligations.SendMapAndTimeout : Prop :=
  ∀ (s : State) (c : Cmd), Standard s →
    (∀ rt : BitVec 2, At (.sendCommand c) .sc2 0 s →
      ((c.respType = 0x0001 ∨ c.respType = 0x0008 ∨ c.respType = 0x0040 ∨ c.respType = 0x0080) ∧ rt = 2 ∨
        c.respType = 0x0004 ∧ rt = 1 ∨ c.respType = 0x0002 ∧ rt = 3 ∨ c.respType = 0x0000 ∧ rt = 0) →
      exec (.sendCommand c) s = .next { s with st := .sc3, pos := 0, work := { s.work with rt := rt } }) ∧
    (At (.sendCommand c) .sc2 0 s → s.ret = none →
      (∀ t ∈ ([0x0000, 0x0001, 0x0002, 0x0004, 0x0008, 0x0040, 0x0080] : List Half), c.respType ≠ t) →
      exec (.sendCommand c) s =
        .next { s with st := s.home, pos := 0, cur := none, work := Work.blank,
                       trace := .answer .invalidArgument :: s.trace }) ∧
    (At (.sendCommand c) .sc3 0 s →
      exec (.sendCommand c) s =
        .next { s with
          st := .sc4, pos := 0
          work := { s.work with flags := s.work.rt.setWidth 8 ||| (if c.dataPresent then 0x20 else 0) ||| (c.cmdType.setWidth 8 <<< 6) }
          ctl := s.ctl.put .timeoutCtrl (s.cfg.cmdTimeoutVal.setWidth 32)
          trace := .caller (.regWrite .timeoutCtrl (s.cfg.cmdTimeoutVal.setWidth 32)) :: s.trace })

/-- SC.4 (R256): skipped whole without data. With data BUILD_TABLE runs on the buffer and `block_count * BLOCK_SIZE`, then
BLKSZ, ARG2 for more than one block only, BLKCNT, ADMA_ADDR, which hands the table to the device, and TRANSMODE. SC.5
(R258): ARG, then CMD, at which the controller holds the transaction. -/
def Obligations.SendSetupAndIssue : Prop :=
  ∀ (s : State) (c : Cmd), Standard s →
    (At (.sendCommand c) .sc4 0 s → c.dataPresent = false →
      exec (.sendCommand c) s = .next { s with st := .sc5, pos := 0, work := { s.work with table := none } }) ∧
    (At (.sendCommand c) .sc4 0 s → c.dataPresent = true →
      exec (.sendCommand c) s =
        .next { s with
          st := .bt1, pos := 0, ret := some (.sc4, 1)
          work := { s.work with table := none, addr := c.buf, len := c.blockCount * s.cfg.blockSize } }) ∧
    (At (.sendCommand c) .sc4 1 s →
      exec (.sendCommand c) s =
        .next (goTo .sc4 (if 1 < c.blockCount.toNat then 2 else 3) (regWrite .blksz s.cfg.blockSize
          { s with work := { s.work with
              tm := (if 1 < c.blockCount.toNat then 0x002A else 0) ||| (if c.dir then 0x0010 else 0) ||| 0x0001 } }))) ∧
    (At (.sendCommand c) .sc4 2 s →
      exec (.sendCommand c) s = .next (goTo .sc4 3 (regWrite .arg2 c.blockCount s))) ∧
    (At (.sendCommand c) .sc4 3 s →
      exec (.sendCommand c) s = .next (goTo .sc4 4 (regWrite .blkcnt (BitVec.ofNat 32 (c.blockCount.toNat % 2 ^ 16)) s))) ∧
    (∀ t, At (.sendCommand c) .sc4 4 s → s.work.table = some t →
      exec (.sendCommand c) s =
        .next (goTo .sc4 5 (regWrite .admaAddr t { s with tableInFlight := some (t, 8 * s.work.count) }))) ∧
    (At (.sendCommand c) .sc4 5 s →
      exec (.sendCommand c) s = .next (goTo .sc5 0 (regWrite .transmode (s.work.tm.setWidth 32) s))) ∧
    (At (.sendCommand c) .sc5 0 s →
      exec (.sendCommand c) s =
        .next { s with pos := 1, ctl := s.ctl.put .arg c.argument, trace := .caller (.regWrite .arg c.argument) :: s.trace }) ∧
    (At (.sendCommand c) .sc5 1 s →
      exec (.sendCommand c) s =
        .next { s with
          st := .sc6, pos := 0
          work := { s.work with cmdTo := false, transTo := false, n := 0 }
          ctl := s.ctl.put .cmd (((c.index &&& 0xFF).setWidth 32 <<< 8) ||| s.work.flags.setWidth 32)
          inFlight := some (((c.index &&& 0xFF) <<< 8) ||| s.work.flags.setWidth 16)
          trace := .caller (.regWrite .cmd (((c.index &&& 0xFF).setWidth 32 <<< 8) ||| s.work.flags.setWidth 32)) :: s.trace })

/-- SC.6 (R260): a read without the bit is counted and followed by a delay; at CMD_RETRY_MAX the operation goes to SC.9 with
`cmd_to`, no slot written; with the bit, exactly 0x0001 is written to clear it, and SC.7 follows. -/
def Obligations.SendCmdPoll : Prop :=
  ∀ (s : State) (c : Cmd), Standard s →
    (At (.sendCommand c) .sc6 0 s → readValue .nrmlIntSts s &&& 0x0001 ≠ 0 →
      exec (.sendCommand c) s = .next { regRead .nrmlIntSts s with pos := 2 }) ∧
    (At (.sendCommand c) .sc6 0 s → readValue .nrmlIntSts s &&& 0x0001 = 0 →
      exec (.sendCommand c) s = .next { regRead .nrmlIntSts s with pos := 1 }) ∧
    (At (.sendCommand c) .sc6 1 s → s.work.n + 1 ≠ s.cfg.cmdRetryMax →
      exec (.sendCommand c) s =
        .next { s with pos := 0, work := { s.work with n := s.work.n + 1 },
                       trace := .caller (.delay s.cfg.cmdSpacingUs) :: s.trace }) ∧
    (At (.sendCommand c) .sc6 1 s → s.work.n + 1 = s.cfg.cmdRetryMax →
      exec (.sendCommand c) s =
        .next { s with st := .sc9, pos := 0, work := { s.work with n := s.work.n + 1, cmdTo := true },
                       trace := .caller (.delay s.cfg.cmdSpacingUs) :: s.trace }) ∧
    (At (.sendCommand c) .sc6 2 s →
      exec (.sendCommand c) s =
        .next { s with
          st := .sc7, pos := 0
          ctl := s.ctl.put .nrmlIntSts (s.ctl.get .nrmlIntSts &&& ~~~0x0001)
          trace := .caller (.regWrite .nrmlIntSts 0x0001) :: s.trace })

/-- RESP_EXTRACT (44_response_and_errors.md R290 to R292), in step 7, and run alone in SC.7 (log 9, 31): a 136-bit response reads the four raw
registers once each, ascending, and writes the four slots shifted by a byte; any other reads RESP0 once and writes slot 0
alone. -/
def Obligations.RespExtractSteps : Prop :=
  ∀ (s : State) (i : Instr) (done : State → State),
    (i = .respExtract s.work.rt ∧ done = leave ∨ (∃ c, i = .sendCommand c) ∧ done = goTo .sc8 0) →
    (At i .sc7 0 s → s.work.rt ≠ s.cfg.bits.resp136 →
      exec i s = .next (done { regRead .resp0 s with slots := { s.slots with w0 := readValue .resp0 s } })) ∧
    (At i .sc7 0 s → s.work.rt = s.cfg.bits.resp136 →
      exec i s = .next { regRead .resp0 s with pos := 1, work := { s.work with raw := { s.work.raw with w0 := readValue .resp0 s } } }) ∧
    (At i .sc7 1 s →
      exec i s = .next { regRead .resp1 s with pos := 2, work := { s.work with raw := { s.work.raw with w1 := readValue .resp1 s } } }) ∧
    (At i .sc7 2 s →
      exec i s = .next { regRead .resp2 s with pos := 3, work := { s.work with raw := { s.work.raw with w2 := readValue .resp2 s } } }) ∧
    (At i .sc7 3 s →
      exec i s =
        .next (done { regRead .resp3 s with
          work := { s.work with raw := { s.work.raw with w3 := readValue .resp3 s } }
          slots :=
            ⟨s.work.raw.w0 <<< 8, (s.work.raw.w1 <<< 8) ||| (s.work.raw.w0 >>> 24),
              (s.work.raw.w2 <<< 8) ||| (s.work.raw.w1 >>> 24), (readValue .resp3 s <<< 8) ||| (s.work.raw.w2 >>> 24)⟩ }))

/-- SC.8 (R262): with data, or for the switch command, a poll of TRANS_COMPLETE of the shape of SC.6 with its own bound and
spacing; for every other command no event. -/
def Obligations.SendTransPoll : Prop :=
  ∀ (s : State) (c : Cmd), Standard s →
    (At (.sendCommand c) .sc8 0 s → (c.dataPresent = true ∨ c.index.toNat = s.cfg.switchCmdIndex) →
      exec (.sendCommand c) s = .next { s with pos := 1, work := { s.work with n := 0 } }) ∧
    (At (.sendCommand c) .sc8 0 s → c.dataPresent = false → c.index.toNat ≠ s.cfg.switchCmdIndex →
      exec (.sendCommand c) s = .next { s with st := .sc9, pos := 0 }) ∧
    (At (.sendCommand c) .sc8 1 s → readValue .nrmlIntSts s &&& 0x0002 ≠ 0 →
      exec (.sendCommand c) s = .next { regRead .nrmlIntSts s with pos := 3 }) ∧
    (At (.sendCommand c) .sc8 1 s → readValue .nrmlIntSts s &&& 0x0002 = 0 →
      exec (.sendCommand c) s = .next { regRead .nrmlIntSts s with pos := 2 }) ∧
    (At (.sendCommand c) .sc8 2 s → s.work.n + 1 ≠ s.cfg.transRetryMax →
      exec (.sendCommand c) s =
        .next { s with pos := 1, work := { s.work with n := s.work.n + 1 },
                       trace := .caller (.delay s.cfg.transSpacingUs) :: s.trace }) ∧
    (At (.sendCommand c) .sc8 2 s → s.work.n + 1 = s.cfg.transRetryMax →
      exec (.sendCommand c) s =
        .next { s with st := .sc9, pos := 0, work := { s.work with n := s.work.n + 1, transTo := true },
                       trace := .caller (.delay s.cfg.transSpacingUs) :: s.trace }) ∧
    (At (.sendCommand c) .sc8 3 s →
      exec (.sendCommand c) s =
        .next { s with
          st := .sc9, pos := 0
          ctl := s.ctl.put .nrmlIntSts (s.ctl.get .nrmlIntSts &&& ~~~0x0002)
          trace := .caller (.regWrite .nrmlIntSts 0x0002) :: s.trace })

/-- ERR_DECODE (44_response_and_errors.md R295, R297), in step 9, and run alone in SC.9, where it hands the kind over in the
record (log 9, 31): NRML_INT_STS is read; with ERR_INT clear no kind is found; with it set ERR_INT_STS is read and
decoded. Nothing is written. -/
def Obligations.ErrDecodeSteps : Prop :=
  ∀ (s : State) (i : Instr) (done : State → State),
    (i = .errDecode ∧ done = (fun u => handOver (.decoded u.work.hw) u) ∨ (∃ c, i = .sendCommand c) ∧ done = goTo .sc10 0) →
    (At i .sc9 0 s → readValue .nrmlIntSts s &&& s.cfg.bits.errInt.setWidth 32 = 0 →
      exec i s = .next (done { regRead .nrmlIntSts s with work := { s.work with hw := none } })) ∧
    (At i .sc9 0 s → readValue .nrmlIntSts s &&& s.cfg.bits.errInt.setWidth 32 ≠ 0 → exec i s = .next { regRead .nrmlIntSts s with pos := 1 }) ∧
    (At i .sc9 1 s →
      exec i s = .next (done { regRead .errIntSts s with work := { s.work with hw := errKind s.cfg.bits (readValue .errIntSts s) } }))

/-- R295, R296, R297: the kind decoded from ERR_INT_STS is that of the lowest-numbered set bit among bits 9:0, the ten kinds
in the source's order; with none of them set there is no kind, whatever bits 15:10 are. In the default bits of R48. -/
def Obligations.ErrPriorityIsLowestBit : Prop :=
  ∀ (e : Word) (k : Nat),
    (k < 10 → e.getLsbD k = true → (∀ j, j < k → e.getLsbD j = false) →
      errKind Bits.default e = [Status.hwCmdTimeout, .hwCmdCrc, .hwCmdEndBit, .hwCmdIndex, .hwDataTimeout, .hwDataCrc, .hwDataEndBit,
        .hwCurrentLimit, .hwAutoCmd12, .hwAdma][k]?) ∧
    ((∀ j, j < 10 → e.getLsbD j = false) → errKind Bits.default e = none)

/-- SC.10 and SC.11 (R266, R268, R270): the combined soft reset where data was present, whatever happened; then the status,
a read buffer invalidated on SUCCESS only, the table freed where one was built, and the return. -/
def Obligations.SendCleanupAndEnd : Prop :=
  ∀ (s : State) (c : Cmd) (k : Status),
    (s.work.hw = some k ∨ s.work.hw = none ∧ s.work.cmdTo = true ∧ k = .cmdTimeout ∨
      s.work.hw = none ∧ s.work.cmdTo = false ∧ s.work.transTo = true ∧ k = .transTimeout ∨
      s.work.hw = none ∧ s.work.cmdTo = false ∧ s.work.transTo = false ∧ k = .success) →
    (At (.sendCommand c) .sc10 0 s → c.dataPresent = true →
      exec (.sendCommand c) s =
        .next { s with st := .sr1, pos := 0, ret := some (.sc11, 0), work := { s.work with mask := s.cfg.bits.resetCmd ||| s.cfg.bits.resetDat } }) ∧
    (At (.sendCommand c) .sc10 0 s → c.dataPresent = false →
      exec (.sendCommand c) s = .next { s with st := .sc11, pos := 0 }) ∧
    (At (.sendCommand c) .sc11 0 s → c.dataPresent = true → isRead s.cfg.codes c = true → k = .success →
      exec (.sendCommand c) s =
        .next { s with pos := 1, mem := s.mem.splice s.dev c.buf.toNat s.work.len.toNat,
                       dirty := addrDrop s.dirty c.buf.toNat s.work.len.toNat,
                       trace := .caller (.cacheInvalidate c.buf s.work.len.toNat) :: s.trace }) ∧
    (∀ t q, At (.sendCommand c) .sc11 q s → s.ret = none → c.dataPresent = true → s.work.table = some t →
      (q = 1 ∨ q = 0 ∧ (isRead s.cfg.codes c = false ∨ k ≠ .success)) →
      exec (.sendCommand c) s =
        .next { s with
          st := s.home, pos := 0, cur := none, work := Work.blank, tableInFlight := none
          live := s.live.filter (fun b => b.1 ≠ t)
          trace := .answer k :: .caller (.free t) :: s.trace }) ∧
    (At (.sendCommand c) .sc11 0 s → s.ret = none → c.dataPresent = false →
      exec (.sendCommand c) s =
        .next { s with st := s.home, pos := 0, cur := none, work := Work.blank, trace := .answer k :: s.trace })

/-- A whole SEND_COMMAND without data (R240, R242) on an idle, prompt, error-free controller, for every response type, the
switch command with its transfer poll (R262) among them: the exact event list, SUCCESS, the slots of the response, and
nothing else changed; in particular no register of step 4. -/
def Obligations.SendCommandRun : Prop :=
  ∀ (s : State) (c : Cmd) (rt : BitVec 2) (raw : Quad) (p st1 st2 st3 : Word) (rest : List Word) (switch : Bool),
    Standard s → Ready s → c.index.toNat ≤ 63 → switch = decide (c.index.toNat = s.cfg.switchCmdIndex) →
    c.dataPresent = false → mapResp Bits.default Codes.default c.respType = some rt →
    s.env.reads = p :: st1 :: (respReads rt raw ++ ((if switch then [st3] else []) ++ st2 :: rest)) →
    p &&& 0x3 = 0 → st1 &&& 0x0001 ≠ 0 → (switch = true → st3 &&& 0x0002 ≠ 0) → st2 &&& 0x8000 = 0 →
    ∃ t : State,
      execs (14 + (if rt = 1 then 3 else 0) + (if switch then 2 else 0)) (.sendCommand c) s = .next t ∧
      t = { s with
        st := .idle, pos := 0, ret := none, home := .idle, cur := none, work := Work.blank
        slots := respSlots rt raw s.slots, ctl := t.ctl, env := t.env
        inFlight := some (cmdWord Bits.default c.index (cmdFlags Bits.default rt false c.cmdType))
        trace :=
          .answer .success :: .caller (.regRead .nrmlIntSts (st2 &&& 0xFFFF)) ::
            ((if switch then
                [.caller (.regWrite .nrmlIntSts 0x0002), .caller (.regRead .nrmlIntSts (st3 &&& 0xFFFF))]
              else []) ++
            (respRecords rt raw ++
              .caller (.regWrite .nrmlIntSts 0x0001) :: .caller (.regRead .nrmlIntSts (st1 &&& 0xFFFF)) ::
              .caller (.regWrite .cmd
                ((cmdWord Bits.default c.index (cmdFlags Bits.default rt false c.cmdType)).setWidth 32)) ::
              .caller (.regWrite .arg c.argument) ::
              .caller (.regWrite .timeoutCtrl (s.cfg.cmdTimeoutVal.setWidth 32)) ::
              .caller (.regRead .presentState p) :: s.trace)) } ∧
      (∀ r ∈ [Reg.blksz, .blkcnt, .arg2, .admaAddr, .transmode, .hostCtrl1, .hostCtrl2, .pwrCtrl, .clkCtrl, .errIntSts,
          .swReset, .nrmlIntStsEn, .errIntStsEn, .nrmlIntSigEn, .errIntSigEn, .caps1, .caps2], t.ctl.get r = s.ctl.get r ∧ t.ctl.known r = s.ctl.known r) ∧
      t.ctl.get .arg = c.argument ∧ t.env.reads = rest ∧ t.env.allocs = s.env.allocs ∧ t.env.sched = s.env.sched

/-- A whole SEND_COMMAND with data, of either direction, on an idle, prompt, error-free controller (R240, R242; programs P2
and P3 of 95_test_vectors.md): the table is built, handed over and freed, the buffer of a read is invalidated, every event
is as listed, and nothing else is changed. -/
def Obligations.SendDataRun : Prop :=
  ∀ (s : State) (c : Cmd) (rt : BitVec 2) (raw : Quad) (p st1 st2 st3 z tbl : Word) (rest : List Word)
    (restA : List (Option Word)) (lineMax len n : Nat) (multi : Bool),
    Standard s → Ready s → s.cfg.spinBound = none → 1 ≤ s.cfg.blockSize.toNat → s.cfg.blockSize.toNat ≤ 4095 →
    lineMax = s.cfg.maxLine.toNat → 1 ≤ lineMax → lineMax ≤ 65536 →
    c.index.toNat ≤ 63 → c.dataPresent = true → 1 ≤ c.blockCount.toNat → c.blockCount.toNat ≤ 65535 →
    len = c.blockCount.toNat * s.cfg.blockSize.toNat → c.buf.toNat + len ≤ 2 ^ 32 → c.buf.toNat % 4 = 0 →
    (c.dir = true → c.buf.toNat % s.cfg.cacheLine = 0 ∧ len % s.cfg.cacheLine = 0) →
    mapResp Bits.default Codes.default c.respType = some rt → n = ruleCount lineMax len → multi = decide (1 < c.blockCount.toNat) →
    s.env.allocs = some tbl :: restA → tbl.toNat % s.cfg.descAlign = 0 → tbl.toNat + 8 * n ≤ 2 ^ 32 →
    (tbl.toNat + 8 * n ≤ c.buf.toNat ∨ c.buf.toNat + len ≤ tbl.toNat) →
    (∀ b ∈ s.live, tbl.toNat + 8 * n ≤ b.1.toNat ∨ b.1.toNat + b.2 ≤ tbl.toNat) →
    s.env.reads = p :: st1 :: (respReads rt raw ++ st3 :: st2 :: z :: rest) →
    p &&& 0x3 = 0 → st1 &&& 0x0001 ≠ 0 → st3 &&& 0x0002 ≠ 0 → st2 &&& 0x8000 = 0 → z &&& 0x06 = 0 →
    ∃ t : State,
      execs (24 + 3 * n + (if multi then 1 else 0) + (if rt = 1 then 3 else 0) + (if c.dir then 1 else 0))
        (.sendCommand c) s = .next t ∧
      t = { s with
        st := .idle, pos := 0, ret := none, home := .idle, cur := none, work := Work.blank
        slots := respSlots rt raw s.slots, ctl := t.ctl, env := t.env, mem := t.mem, dev := t.dev, dirty := t.dirty
        live := s.live.filter (fun b => b.1 ≠ tbl), tableInFlight := none
        inFlight := some (cmdWord Bits.default c.index (cmdFlags Bits.default rt true c.cmdType))
        trace :=
          .answer .success :: .caller (.free tbl) ::
            ((if c.dir then [.caller (.cacheInvalidate c.buf len)] else []) ++
            .caller (.regRead .swReset (z &&& 0xFF)) :: .caller (.regWrite .swReset 0x06) ::
            .caller (.regRead .nrmlIntSts (st2 &&& 0xFFFF)) ::
            .caller (.regWrite .nrmlIntSts 0x0002) :: .caller (.regRead .nrmlIntSts (st3 &&& 0xFFFF)) ::
            (respRecords rt raw ++
            .caller (.regWrite .nrmlIntSts 0x0001) :: .caller (.regRead .nrmlIntSts (st1 &&& 0xFFFF)) ::
            .caller (.regWrite .cmd
              ((cmdWord Bits.default c.index (cmdFlags Bits.default rt true c.cmdType)).setWidth 32)) ::
            .caller (.regWrite .arg c.argument) ::
            .caller (.regWrite .transmode
              (if multi then (if c.dir then 0x3B else 0x2B) else (if c.dir then 0x11 else 0x01))) ::
            .caller (.regWrite .admaAddr tbl) :: .caller (.regWrite .blkcnt c.blockCount) ::
            ((if multi then [.caller (.regWrite .arg2 c.blockCount)] else []) ++
            .caller (.regWrite .blksz s.cfg.blockSize) ::
            (tableRecords lineMax c.buf tbl len ++
            .caller (.alloc (8 * n) s.cfg.descAlign (some tbl)) ::
            .caller (.regWrite .timeoutCtrl (s.cfg.cmdTimeoutVal.setWidth 32)) ::
            .caller (.regRead .presentState p) :: s.trace)))) } ∧
      (∀ i k, i < n → k < 8 →
        t.dev.read (tbl.toNat + 8 * i + k) = some ((ruleEntry lineMax c.buf len i >>> (8 * k)).setWidth 8)) ∧
      (∀ a, ¬(tbl.toNat ≤ a ∧ a < tbl.toNat + 8 * n) →
        t.dev.read a = s.dev.read a ∧
        t.mem.read a = if c.dir = true ∧ c.buf.toNat ≤ a ∧ a < c.buf.toNat + len then s.dev.read a else s.mem.read a) ∧
      (∀ r ∈ [Reg.hostCtrl1, .hostCtrl2, .pwrCtrl, .clkCtrl, .errIntSts, .nrmlIntStsEn, .errIntStsEn, .nrmlIntSigEn,
          .errIntSigEn, .caps1, .caps2], t.ctl.get r = s.ctl.get r ∧ t.ctl.known r = s.ctl.known r) ∧
      (multi = false → t.ctl.get .arg2 = s.ctl.get .arg2) ∧ (multi = true → t.ctl.get .arg2 = c.blockCount) ∧
      t.ctl.get .blksz = s.cfg.blockSize ∧ t.ctl.get .blkcnt = c.blockCount ∧ t.ctl.get .admaAddr = tbl ∧
      t.ctl.get .arg = c.argument ∧
      t.env.reads = rest ∧ t.env.allocs = restA ∧ t.env.sched = s.env.sched

/-! ### INIT and the configuration operations (45_init_and_config_ops.md) -/

/-- The phases of INIT (R311 to R318), each with its event and its values; the wait of IN.7 is `EventWaitAndRace`. -/
def Obligations.InitSteps : Prop :=
  ∀ s : State,
    (At .init .in1 0 s →
      exec .init s = .next { s with st := .sr1, pos := 0, ret := some (.in2, 0), work := { s.work with mask := s.cfg.bits.resetAll } }) ∧
    (At .init .in2 0 s →
      exec .init s = .next { regRead .caps1 s with pos := 1, work := { s.work with tmp := readValue .caps1 s } }) ∧
    (At .init .in2 1 s →
      exec .init s = .next { regRead .caps2 s with st := .in3, pos := 0, h := capRecord s.cfg.bits s.work.tmp (readValue .caps2 s) }) ∧
    (At .init .in3 0 s →
      exec .init s = .next { s with st := .in4, pos := 0, ev := false, trace := .caller .eventArm :: s.trace }) ∧
    (At .init .in4 0 s →
      exec .init s = .next { s with st := .in5, pos := 0, irq := { s.irq with masked := false },
                                    trace := .caller (.irqUnmask s.cfg.pwrIrqLine) :: s.trace }) ∧
    (At .init .in5 0 s →
      exec .init s = .next { s with st := .in6, pos := 0, pwr := { s.pwr with maskEn := ⟨s.cfg.pwrIntEnVal, true⟩ },
                                    trace := .caller (.pwrWrite .mask s.cfg.pwrIntEnVal) :: s.trace }) ∧
    (∀ v : Byte, At .init .in6 0 s → s.h.voltage = some v →
      exec .init s = .next { s with pos := 1, ctl := s.ctl.put .pwrCtrl ((v <<< s.cfg.bits.voltSelPos).setWidth 32),
                                    trace := .caller (.regWrite .pwrCtrl ((v <<< s.cfg.bits.voltSelPos).setWidth 32)) :: s.trace }) ∧
    (∀ v : Byte, At .init .in6 1 s → s.h.voltage = some v →
      exec .init s = .next { s with st := .in7, pos := 0, ctl := s.ctl.put .pwrCtrl (((v <<< s.cfg.bits.voltSelPos) ||| s.cfg.bits.busPwrEn).setWidth 32),
                                    trace := .caller (.regWrite .pwrCtrl (((v <<< s.cfg.bits.voltSelPos) ||| s.cfg.bits.busPwrEn).setWidth 32)) :: s.trace }) ∧
    (At .init .in8 0 s →
      exec .init s = .next { s with st := .bw1, pos := 0, ret := some (.in9, 0), work := { s.work with width := s.cfg.codes.w1 } }) ∧
    (At .init .in9 0 s →
      exec .init s = .next { s with st := .in10, pos := 0, ctl := s.ctl.put .hostCtrl1 (s.cfg.bits.admaSel.setWidth 32),
                                    trace := .caller (.regWrite .hostCtrl1 (s.cfg.bits.admaSel.setWidth 32)) :: s.trace }) ∧
    (At .init .in10 0 s →
      exec .init s = .next { s with pos := 1, ctl := s.ctl.put .nrmlIntStsEn (s.cfg.nrmlIntEnVal.setWidth 32),
                                    trace := .caller (.regWrite .nrmlIntStsEn (s.cfg.nrmlIntEnVal.setWidth 32)) :: s.trace }) ∧
    (At .init .in10 1 s →
      exec .init s = .next { s with pos := 2, ctl := s.ctl.put .errIntStsEn (s.cfg.errIntEnVal.setWidth 32),
                                    trace := .caller (.regWrite .errIntStsEn (s.cfg.errIntEnVal.setWidth 32)) :: s.trace }) ∧
    (At .init .in10 2 s →
      exec .init s = .next { s with pos := 3, ctl := s.ctl.put .nrmlIntSigEn (s.cfg.nrmlIntEnVal.setWidth 32),
                                    trace := .caller (.regWrite .nrmlIntSigEn (s.cfg.nrmlIntEnVal.setWidth 32)) :: s.trace }) ∧
    (At .init .in10 3 s →
      exec .init s = .next { s with st := .in11, pos := 0, ctl := s.ctl.put .errIntSigEn (s.cfg.errIntEnVal.setWidth 32),
                                    trace := .caller (.regWrite .errIntSigEn (s.cfg.errIntEnVal.setWidth 32)) :: s.trace }) ∧
    (At .init .in11 0 s → s.ret = none →
      exec .init s =
        .next { s with st := s.home, pos := 0, cur := none, work := Work.blank, trace := .answer .success :: s.trace })

/-- The capability decode (30_encoding.md R154) in numbers: the base clock is a whole number of MHz from 0 to 255 and cannot
overflow; the seven fields are written and the current rate is made unwritten (R312). In the default bits of R51. -/
def Obligations.CapabilityDecode : Prop :=
  ∀ c1 c2 : Word,
    (∃ b, (capRecord Bits.default c1 c2).baseClkRate = some b ∧ b.toNat = c1.toNat / 2 ^ 8 % 2 ^ 8 * 1000000) ∧
    (∃ l, (capRecord Bits.default c1 c2).maxBlkLen = some l ∧ l.toNat = c1.toNat / 2 ^ 16 % 2 ^ 2) ∧
    (capRecord Bits.default c1 c2).busWidth8bit = some (c1.getLsbD 18) ∧
    (capRecord Bits.default c1 c2).admaSupport = some (c1.getLsbD 19) ∧
    (capRecord Bits.default c1 c2).voltage =
      some (if c1.getLsbD 24 then 7 else if c1.getLsbD 25 then 6 else if c1.getLsbD 26 then 5 else 0) ∧
    (capRecord Bits.default c1 c2).ddrSupport = some (c2.getLsbD 2) ∧
    (capRecord Bits.default c1 c2).sdr50Support = some (c2.getLsbD 0) ∧
    (capRecord Bits.default c1 c2).curClkRate = none

/-- A whole INIT (R310), from UNINIT or IDLE, with any number of reads until the reset completes, in the interleaving in
which the handler runs while INIT waits in IN.7: it ends in IDLE with SUCCESS, the record of the two capability words, the
event consumed, and the registers R314, R317 and R318 name. That the main block answers INIT whatever HC_MODE holds is
log 38. -/
def Obligations.InitRun : Prop :=
  ∀ (s : State) (busy : List Word) (z c1 c2 m hc : Word) (rest : List Word),
    Standard s → s.cur = none → (s.st = .uninit ∨ s.st = .idle) → s.blockGone = false → s.cfg.spinBound = none →
    s.env.reads = busy ++ z :: c1 :: c2 :: m :: hc :: rest → (∀ x ∈ busy, x &&& 0x01 ≠ 0) → z &&& 0x01 = 0 →
    ∃ (s1 s2 t : State) (v : Byte),
      execs (busy.length + 11) .init s = .next s1 ∧ At .init .in7 0 s1 ∧ s1.ev = false ∧ s1.irq.masked = false ∧
      exec .pwrIrq s1 = .next s2 ∧ execs 11 .init s2 = .next t ∧
      t = { s with
        st := .idle, pos := 0, ret := none, home := .idle, cur := none, work := Work.blank
        h := capRecord Bits.default c1 c2, ev := false, ctl := t.ctl, pwr := t.pwr
        irq := ⟨false, false, 0, 0⟩, env := t.env, trace := t.trace } ∧
      t.trace.head? = some (.answer .success) ∧ t.pwr.mask = m ∧ t.pwr.hcMode = s.pwr.hcMode ∧
      t.pwr.maskEn = ⟨s.cfg.pwrIntEnVal, true⟩ ∧ t.pwr.ctl = ⟨ackWord Bits.default m, true⟩ ∧
      (capRecord Bits.default c1 c2).voltage = some v ∧ t.ctl.get .pwrCtrl = ((v <<< 1) ||| 0x01).setWidth 32 ∧
      t.ctl.get .hostCtrl1 = 0x10 ∧
      t.ctl.get .nrmlIntStsEn = s.cfg.nrmlIntEnVal.setWidth 32 ∧ t.ctl.get .errIntStsEn = s.cfg.errIntEnVal.setWidth 32 ∧
      t.ctl.get .nrmlIntSigEn = s.cfg.nrmlIntEnVal.setWidth 32 ∧ t.ctl.get .errIntSigEn = s.cfg.errIntEnVal.setWidth 32 ∧
      t.env.reads = rest ∧ t.env.allocs = s.env.allocs ∧ t.env.sched = s.env.sched

/-- SET_BUS_WIDTH (R320, 30_encoding.md R134): the codes of the three tags, INVALID_ARGUMENT with no register access for any
other; then HOST_CTRL1 read and written back with the code ORed in. The rule holds where INIT nests it. -/
def Obligations.SetBusWidthSteps : Prop :=
  ∀ (s : State) (i : Instr), Standard s → runsWidth i = true → s.cur = some i →
    (∀ code : Byte, s.st = .bw1 →
      (s.work.width = 0 ∧ code = 0x00 ∨ s.work.width = 1 ∧ code = 0x02 ∨ s.work.width = 2 ∧ code = 0x20) →
      exec i s = .next { s with st := .bw2, pos := 0, work := { s.work with code := code } }) ∧
    (s.st = .bw1 → s.work.width ≠ 0 → s.work.width ≠ 1 → s.work.width ≠ 2 →
      exec i s = .next (finish .invalidArgument s)) ∧
    (s.st = .bw2 → s.pos = 0 →
      exec i s = .next { regRead .hostCtrl1 s with pos := 1, work := { s.work with tmp := readValue .hostCtrl1 s } }) ∧
    (s.st = .bw2 → s.pos = 1 →
      exec i s = .next (finish .success (regWrite .hostCtrl1 (s.work.tmp ||| s.work.code.setWidth 32) s)))

/-- SET_SDR_MODE and SET_DDR_MODE (R325, R326): CLK_EN cleared by read-modify-write, the mode bit ORed into HOST_CTRL2, then
CLK_SUPPLY at the current rate, whose status is discarded. -/
def Obligations.ModeChangeSteps : Prop :=
  ∀ (s : State) (i : Instr) (p1 p2 p3 : Phase) (bit : Half),
    (i = .setSdrMode ∧ p1 = .sm1 ∧ p2 = .sm2 ∧ p3 = .sm3 ∧ bit = s.cfg.bits.sdr50ModeEn ∨
      i = .setDdrMode ∧ p1 = .dm1 ∧ p2 = .dm2 ∧ p3 = .dm3 ∧ bit = s.cfg.bits.ddrModeEn) →
    (At i p1 0 s →
      exec i s = .next { regRead .clkCtrl s with pos := 1, work := { s.work with tmp := readValue .clkCtrl s } }) ∧
    (At i p1 1 s → exec i s = .next (goTo p2 0 (regWrite .clkCtrl (s.work.tmp &&& ~~~(s.cfg.bits.clkEn.setWidth 32)) s))) ∧
    (At i p2 0 s →
      exec i s = .next { regRead .hostCtrl2 s with pos := 1, work := { s.work with tmp := readValue .hostCtrl2 s } }) ∧
    (At i p2 1 s → exec i s = .next (goTo p3 0 (regWrite .hostCtrl2 (s.work.tmp ||| bit.setWidth 32) s))) ∧
    (∀ f, At i p3 0 s → s.h.curClkRate = some f →
      exec i s = .next { s with st := .cs1, pos := 0, ret := some (p3, 1), work := { s.work with freq := f } }) ∧
    (At i p3 1 s → s.ret = none →
      exec i s =
        .next { s with st := s.home, pos := 0, cur := none, work := Work.blank, trace := .answer .success :: s.trace })

/-- MODE_ENABLE (R330): one write of HC_MODE, 1 for any flag but 0; the engine goes back to the phase it was accepted in.
After INIT, flag 0 takes the main block away (U16; log 21), and every later operation, CHANGE_FREQUENCY among them (log 9), is
refused, by that name whatever else speaks against it (log 36). That flag 0 in UNINIT takes nothing away is log 38. -/
def Obligations.ModeEnableSteps : Prop :=
  (∀ (s : State) (g : Byte), At (.modeEnable g) .me1 0 s → s.ret = none →
    exec (.modeEnable g) s =
      .next { s with
        st := s.home, pos := 0, cur := none, work := Work.blank
        pwr := { s.pwr with hcMode := ⟨if g = 0 then 0 else s.cfg.bits.hcModeEn, true⟩ }
        blockGone := s.blockGone || (decide (g = 0) && decide (s.home = .idle))
        trace := .answer .success :: .caller (.pwrWrite .hcMode (if g = 0 then 0 else s.cfg.bits.hcModeEn)) :: s.trace }) ∧
  (∀ (s : State) (i : Instr), s.cur = none → s.st ≠ .aborted → s.blockGone = true → isExposed i = true →
    exec i s = .refused .mainBlockGone)

/-! ### The power interrupt (40_power_handshake.md, 60_exceptions.md) -/

/-- PWR_IRQ (R170, R171), in any state of the caller context (R176): PWRCTL_MASK is read, whatever the environment holds
there, the acknowledgment of its low four bits is written to PWRCTL_CTL, which ends the pending interrupt (10_state.md R62,
60_exceptions.md R360; log 23), and the event is signalled; the caller context's phase, working registers, H, registers,
memory and slots are untouched (R371, R375), and no temporary of the handler is left (log 30). -/
def Obligations.PwrIrqHandler : Prop :=
  ∀ (s : State) (m ack : Word), Standard s → m = drawValue pwrMaskNumber s →
    (m &&& 0x3 = 0 ∧ m &&& 0xC = 0 ∧ ack = 0x0 ∨ m &&& 0x3 ≠ 0 ∧ m &&& 0xC = 0 ∧ ack = 0x1 ∨
      m &&& 0x3 = 0 ∧ m &&& 0xC ≠ 0 ∧ ack = 0x4 ∨ m &&& 0x3 ≠ 0 ∧ m &&& 0xC ≠ 0 ∧ ack = 0x5) →
    exec .pwrIrq s =
      .next { s with
        ev := true
        pwr := { s.pwr with mask := m, ctl := ⟨ack, true⟩ }
        irq := { s.irq with pending := false, m := 0, ack := 0 }
        env := { s.env with reads := s.env.reads.tail, draws := s.env.draws + 1 }
        trace := .irq .eventSignal :: .irq (.pwrWrite .ctl ack) :: .irq (.pwrRead .mask m) :: s.trace }

/-- The wait of IN.7 (R174, R177; R366): with the event 0 the caller context has no step, with it 1 it consumes it and goes
on; with no schedule and the line delivered, only the handler can move while the caller context is held. -/
def Obligations.EventWaitAndRace : Prop :=
  ∀ s : State, At .init .in7 0 s →
    (s.ev = false → exec .init s = .next s) ∧
    (s.ev = true → exec .init s = .next { s with st := .in8, pos := 0, ev := false, trace := .caller .eventWait :: s.trace }) ∧
    (s.ev = false → s.env.sched = [] → s.irq.pending = true → s.irq.masked = false → step s = exec .pwrIrq s) ∧
    (s.ev = false → s.env.sched = [] → s.irq.pending = false → step s = .next s)

/-! ### The hardware-side words (30_encoding.md R126 to R128, R135 to R137, R140) -/

/-- Each word's instruction is the write of that word to its register, whatever else runs: the event of that write, its
effect on the register, and nothing else; WORD_CLK leaves the volatile bit of CLK_CTRL as it was (log 14). A
transfer-mode word whose three multi-block bits differ, and a status-clear word that is not one-hot, are produced by no
run and refused by name. That a word stands for its event is log 10. -/
def Obligations.HardwareWordEvents : Prop :=
  ∀ s : State, Standard s → s.st ≠ .aborted →
    (∀ (x : BitVec 6) (t : BitVec 2) (p : Bool) (r : BitVec 2),
      exec (.wordCmd x t p r) s =
        .next { s with
          ctl := s.ctl.put .cmd (BitVec.setWidth 32 (0#2 ++ x ++ t ++ BitVec.ofBool p ++ 0#3 ++ r))
          inFlight := some (0#2 ++ x ++ t ++ BitVec.ofBool p ++ 0#3 ++ r)
          trace := .caller (.regWrite .cmd (BitVec.setWidth 32 (0#2 ++ x ++ t ++ BitVec.ofBool p ++ 0#3 ++ r))) :: s.trace }) ∧
    (∀ m d : Bool,
      exec (.wordTransmode m d m m) s =
        .next { s with
          ctl := s.ctl.put .transmode (if m then (if d then 0x3B else 0x2B) else (if d then 0x11 else 0x01))
          trace := .caller (.regWrite .transmode (if m then (if d then 0x3B else 0x2B) else (if d then 0x11 else 0x01))) :: s.trace }) ∧
    (∀ m d a c : Bool, ¬(m = a ∧ a = c) → exec (.wordTransmode m d a c) s = .refused (.outsideDomain .notProduced)) ∧
    (∀ (l : Byte) (h : BitVec 2),
      exec (.wordClk l h) s =
        .next { s with
          ctl := s.ctl.put .clkCtrl (BitVec.setWidth 32 (l ++ h ++ 1#6) ||| (s.ctl.get .clkCtrl &&& 0x0002))
          trace := .caller (.regWrite .clkCtrl (BitVec.setWidth 32 (l ++ h ++ 1#6))) :: s.trace }) ∧
    (∀ d c a : Bool,
      exec (.wordSwReset d c a) s =
        .next { s with
          ctl :=
            if a then (s.ctl.put .swReset (BitVec.setWidth 32 (0#5 ++ BitVec.ofBool d ++ BitVec.ofBool c ++ BitVec.ofBool a))).forget
            else s.ctl.put .swReset (BitVec.setWidth 32 (0#5 ++ BitVec.ofBool d ++ BitVec.ofBool c ++ BitVec.ofBool a))
          trace := .caller (.regWrite .swReset
            (BitVec.setWidth 32 (0#5 ++ BitVec.ofBool d ++ BitVec.ofBool c ++ BitVec.ofBool a))) :: s.trace }) ∧
    (∀ x b : Bool,
      exec (.wordPwrAck x b) s =
        .next { s with
          pwr := { s.pwr with ctl := ⟨0#29 ++ BitVec.ofBool x ++ 0#1 ++ BitVec.ofBool b, true⟩ }
          irq := { s.irq with pending := false }
          trace := .irq (.pwrWrite .ctl (0#29 ++ BitVec.ofBool x ++ 0#1 ++ BitVec.ofBool b)) :: s.trace }) ∧
    (∀ b : Bool,
      exec (.wordStsClear b (!b)) s =
        .next { s with
          ctl := s.ctl.put .nrmlIntSts (s.ctl.get .nrmlIntSts &&& ~~~(if b then 0x0002 else 0x0001))
          trace := .caller (.regWrite .nrmlIntSts (if b then 0x0002 else 0x0001)) :: s.trace }) ∧
    (∀ b : Bool, exec (.wordStsClear b b) s = .refused (.outsideDomain .notProduced))

/-- ADMA2_ENTRY (R140; 42_descriptor_builder.md R220) run alone: with a table it is accepted, and its three writes, address,
length and attribute, one event each, put the entry's 64-bit value `addr ++ len ++ attr` little-endian at the next place of
the table; no other byte and nothing else changes. Without a table there is no place, and it is refused by name. The
choice of the place is log entry 11, and that it runs alone at all is log 10. In the default layout of an entry. -/
def Obligations.EntryWordEvent : Prop :=
  ∀ (s : State) (addr : Word) (len : Half) (e : Bool) (attr : Half),
    s.cfg.entry = EntryLayout.default → Ready s → attr = (if e then 0x0023 else 0x0021) →
    (∀ t, s.work.table = some t →
      exec (.adma2Entry addr len e) s =
        .next { s with
          cur := some (.adma2Entry addr len e), st := .bt2, pos := 0, ret := none, home := .idle
          work := { Work.blank with table := some t, idx := s.work.idx } } ∧
      ∃ u,
        execs 4 (.adma2Entry addr len e) s = .next u ∧
        u = { s with
          st := .idle, pos := 0, ret := none, home := .idle, cur := none, work := Work.blank
          mem := u.mem, dirty := u.dirty
          trace :=
            .caller (.memWrite (entryAddr t s.work.idx 0) 2 (attr.setWidth 32)) ::
              .caller (.memWrite (entryAddr t s.work.idx 2) 2 (len.setWidth 32)) ::
              .caller (.memWrite (entryAddr t s.work.idx 4) 4 addr) :: s.trace } ∧
        (∀ k, k < 8 → u.mem.read (entryAddr t s.work.idx 0 + BitVec.ofNat 32 k).toNat =
          some (((addr ++ len ++ attr) >>> (8 * k)).setWidth 8)) ∧
        (∀ a, (∀ k, k < 8 → a ≠ (entryAddr t s.work.idx 0 + BitVec.ofNat 32 k).toNat) → u.mem.read a = s.mem.read a)) ∧
    (s.work.table = none → exec (.adma2Entry addr len e) s = .refused .noTable)

/-! ### Registers and the whole machine -/

/-- The register read model (10_state.md R52, R47): a storage register reads as last written, another register's write does
not move it, CLK_CTRL likewise but for the bits the environment drives; a write of RESET_ALL makes every storage register
unspecified, so that a read is a draw; a volatile register is a draw at every read; a status write clears exactly the bits
written 1, ERR_INT excepted. What a write leaves of the volatile bit of CLK_CTRL is log entry 14. -/
def Obligations.RegisterReadModel : Prop :=
  ∀ (s : State) (r q : Reg) (v : Word),
    (r.storage = true → r ≠ .clkCtrl → readValue r (regWrite r v s) = v &&& r.bits) ∧
    (readValue .clkCtrl (regWrite .clkCtrl v s) &&& ~~~(s.cfg.bits.clkVolatile.setWidth 32) =
      v &&& 0xFFFF &&& ~~~(s.cfg.bits.clkVolatile.setWidth 32)) ∧
    (r.storage = true → q ≠ r → q ≠ .swReset → s.ctl.known r = true →
      readValue r (regWrite q v s) &&& ~~~(r.volatileBits s.cfg.bits) = s.ctl.get r &&& ~~~(r.volatileBits s.cfg.bits)) ∧
    (r.storage = true → v &&& s.cfg.bits.resetAll.setWidth 32 ≠ 0 →
      readValue r (regWrite .swReset v s) = drawValue r.number s &&& r.bits) ∧
    (r.storage = false → readValue r s = drawValue r.number s &&& r.bits) ∧
    ((regWrite .nrmlIntSts v s).ctl.get .nrmlIntSts =
      s.ctl.get .nrmlIntSts &&& ~~~(v &&& ~~~(s.cfg.bits.errInt.setWidth 32))) ∧
    (q ≠ r → (regRead r s).ctl.get q = s.ctl.get q)

/-- Every event the machine ever adds to its record is one the register table allows (10_state.md R40, 20_memory.md R89):
reads of readable registers, writes of writable ones at their width, memory writes of 2 or 4 bytes. So ERR_INT_STS is
never written (44_response_and_errors.md R298). -/
def Obligations.OnlyAllowedEvents : Prop :=
  ∀ (s t : State) (e : Event), step s = .next t →
    (.caller e ∈ t.trace → .caller e ∈ s.trace ∨ e.allowed = true) ∧
    (.irq e ∈ t.trace → .irq e ∈ s.trace ∨ e.allowed = true)

/-- Events come one at a time (00_scope.md R12, 20_memory.md R94): a step adds at most one event and at most one delivered
status or output to the record, but for the three contiguous events of the handler; it takes nothing away. -/
def Obligations.OneEventPerStep : Prop :=
  ∀ s t : State, step s = .next t →
    ∃ new : List Record, t.trace = new ++ s.trace ∧
      (new = [] ∨ (∃ r, new = [r]) ∨ (∃ k e, new = [.answer k, .caller e]) ∨
        (∃ a e, new = [.table a, .caller e]) ∨ (∃ k e, new = [.decoded k, .caller e]) ∨
        (∃ m a, new = [.irq .eventSignal, .irq (.pwrWrite .ctl a), .irq (.pwrRead .mask m)]))

/-- H is mutated only by INIT and by the Clock Controller (10_state.md R21, R22): the current rate changes only where CS.6
records the achieved rate, or where IN.2 makes it unwritten; the seven capability fields only at IN.2, from the first word
kept and the second word just read. -/
def Obligations.RecordWrittenOnlyBy : Prop :=
  ∀ s t : State, step s = .next t → t.h ≠ s.h →
    (s.st = .cs6 ∧ t.h = { s.h with curClkRate := some s.work.achieved }) ∨
    (s.st = .in2 ∧ ∃ c2, t.trace = .caller (.regRead .caps2 c2) :: s.trace ∧ t.h = capRecord s.cfg.bits s.work.tmp c2)

/-- Who else writes what (10_state.md R27, R33, R60; 70_reset_and_hazards.md R414): response slots change only in step 7, or
by the caller; the event only at IN.3, at IN.7 and by the handler; the table in flight only at the ADMA_ADDR write of SC.4
and at the release of SC.11; the configuration never. Apart from the outside's own moves, a byte of memory changes only in
the block just allocated (BT.1), in the entry being written (BT.2: in its eight bytes, where Cfg's layout keeps the fields
there) and in the buffer invalidated (SC.11), and for the device only in the table being cleaned (BT.3): after its clean the
engine never writes a table. A block becomes live at BT.1 and is freed at SC.11. -/
def Obligations.StateWrittenOnlyWhere : Prop :=
  ∀ s t : State, step s = .next t →
    (t.slots ≠ s.slots → s.st = .sc7 ∨ ∃ q r, s.env.sched = .outside (.setSlots q) :: r) ∧
    (t.ev ≠ s.ev → (s.st = .in3 ∨ s.st = .in7) ∧ t.ev = false ∨
      t.ev = true ∧ ∃ m a, t.trace =
        .irq .eventSignal :: .irq (.pwrWrite .ctl a) :: .irq (.pwrRead .mask m) :: s.trace) ∧
    (t.tableInFlight ≠ s.tableInFlight → s.st = .sc4 ∧ t.tableInFlight = s.work.table.map (fun a => (a, 8 * s.work.count)) ∨
      s.st = .sc11 ∧ t.tableInFlight = none) ∧
    t.cfg = s.cfg ∧
    (∀ a, t.mem.read a ≠ s.mem.read a →
      (∃ m r, s.env.sched = .outside m :: r ∧ ((∃ x b, m = .cpuWrite x b ∧ a = x.toNat) ∨ ∃ x, m = .refill x ∧ a = x.toNat)) ∨
      (s.st = .bt1 ∧ ∃ b : Word × Nat, t.live = b :: s.live ∧ b.1.toNat ≤ a ∧ a < b.1.toNat + b.2) ∨
      (s.st = .bt2 ∧ ∃ tb, s.work.table = some tb ∧
        (s.cfg.entry.Tiles → ∃ k, k < 8 ∧ a = (entryAddr tb s.work.idx 0 + BitVec.ofNat 32 k).toNat)) ∨
      (s.st = .sc11 ∧ ∃ c, s.cur = some (.sendCommand c) ∧ c.buf.toNat ≤ a ∧ a < c.buf.toNat + s.work.len.toNat)) ∧
    (∀ a, t.dev.read a ≠ s.dev.read a →
      (∃ m r, s.env.sched = .outside m :: r ∧
        ((∃ x b, m = .deviceWrite x b ∧ a = x.toNat) ∨ ∃ x, m = .evict x ∧ a = x.toNat)) ∨
      (s.st = .bt3 ∧ ∃ tb, s.work.table = some tb ∧ tb.toNat ≤ a ∧ a < tb.toNat + 8 * s.work.count)) ∧
    (t.live ≠ s.live →
      (s.st = .bt1 ∧ ∃ b, t.live = b :: s.live) ∨
      (s.st = .sc11 ∧ ∃ tb, s.work.table = some tb ∧ t.live = s.live.filter (fun b => b.1 ≠ tb)))

/-- ABORTED is for good (10_state.md R34, 60_exceptions.md R356): no request is accepted, no event of the caller context
and no status ever again; the interrupt context is not affected. That an operation's turn there answers the unchanged state
is log 19, and that a word offered there is dropped is log 20. -/
def Obligations.AbortedForever : Prop :=
  ∀ s : State, s.st = .aborted → s.cur = none →
    (∀ i : Instr, isExposed i = true → exec i s = .next s) ∧
    (∀ t, step s = .next t →
      t.st = .aborted ∧ t.cur = none ∧ t.ctl = s.ctl ∧ t.h = s.h ∧ callerRecords t.trace = callerRecords s.trace) ∧
    (∃ t, exec .pwrIrq s = .next t ∧ t.ev = true)

/-- Every step keeps the invariant: canonical memory, the phase graph with its one-deep return, the fields of H a running
operation reads, the table of a data command live and alone in the device's hands, and the current rate one the divider
gives. And every step keeps what R121 says of the port: only public operations, and CHANGE_FREQUENCY, which the model
exposes (log 9), run or wait to run. -/
def Obligations.StepKeepsInv : Prop :=
  (∀ s t : State, Inv s → step s = .next t → Inv t) ∧ (∀ s t : State, PortInv s → step s = .next t → PortInv t)

/-- The machine after reset meets the invariant, and nothing runs or waits there that a caller may not ask for. What memory
and the cache hold there is log 37, the return phase log 5. -/
def Obligations.ResetInv : Prop := Inv State.reset ∧ PortInv State.reset

/-- In a state that meets the invariant a running operation never stops on a fault or a refusal of its own, whatever the
environment answers: its turn answers a next state, and the stops of log 32 are not reached. That next state need not come
from an event: the wait of IN.7 with the event 0 has no step, and answers the unchanged state (40_power_handshake.md R174,
R177; log 19), and a phase without an event only goes on (log 1). -/
def Obligations.RunningOperationGoesOn : Prop :=
  ∀ (s : State) (i : Instr), Inv s → s.cur = some i → ∃ t, exec i s = .next t

/-- Reset (10_state.md R70): UNINIT, every field of H unwritten, the event 0, no table in flight, no operation latched, the
power line masked and not pending, every storage register unspecified. -/
def Obligations.ResetState : Prop :=
  State.reset.st = .uninit ∧ State.reset.h = ⟨none, none, none, none, none, none, none, none⟩ ∧ State.reset.ev = false ∧
  State.reset.tableInFlight = none ∧ State.reset.cur = none ∧ State.reset.irq.pending = false ∧
  State.reset.irq.masked = true ∧ (∀ r : Reg, r.storage = true → State.reset.ctl.known r = false) ∧
  State.reset.pwr.ctl.known = false ∧ State.reset.pwr.hcMode.known = false ∧ State.reset.offer = none
end

