-- ==== Sys2Proof/Laws/Memory.lean ====
section
/-! SUPPORT. The laws of memory: what a read finds after each operation, and that each keeps the canonical form. -/

namespace Sys2Proof.Machine

theorem read_write (m : Memory) (a b : Nat) (v : Byte) :
    (m.write a v).read b = if b = a then some v else m.read b := by
  induction m with
  | nil => simp [Memory.write, Memory.read, eq_comm]
  | cons c m ih =>
    obtain ⟨k, w⟩ := c
    unfold Memory.write
    split
    · by_cases h : b = a
      · simp [Memory.read, h]
      · have : ¬ a = b := fun e => h e.symm
        simp [Memory.read, h, this, eq_comm]
    · split
      · subst_vars; by_cases h : b = k <;> simp [Memory.read, h, eq_comm]
      · simp only [Memory.read, ih]; split <;> [skip; rfl]
        have : b ≠ a := by omega
        simp [this]

theorem read_write_same (m : Memory) (a : Nat) (v : Byte) : (m.write a v).read a = some v := by simp [read_write]

theorem read_write_ne {a b : Nat} (m : Memory) (v : Byte) (h : b ≠ a) : (m.write a v).read b = m.read b := by
  simp [read_write, h]

theorem read_filter (m : Memory) (p : Nat → Bool) (a : Nat) :
    Memory.read (m.filter (fun c => p c.1)) a = if p a then m.read a else none := by
  induction m with
  | nil => simp [Memory.read]
  | cons c m ih =>
    obtain ⟨k, w⟩ := c
    by_cases hk : p k = true
    · rw [List.filter_cons_of_pos (by simpa using hk)]
      simp only [Memory.read, ih]
      split <;> simp_all
    · rw [List.filter_cons_of_neg (by simpa using hk)]
      simp only [Memory.read, ih]
      by_cases ha : k = a
      · subst ha; simp [hk]
      · simp [ha]

theorem read_append (m n : Memory) (a : Nat) : Memory.read (m ++ n) a = (m.read a).or (Memory.read n a) := by
  induction m with
  | nil => simp [Memory.read]
  | cons c m ih => obtain ⟨k, w⟩ := c; simp only [List.cons_append, Memory.read, ih]; split <;> simp

theorem read_erase (m : Memory) (a b : Nat) : (m.erase a).read b = if b = a then none else m.read b := by
  have := read_filter m (fun x => decide (x ≠ a)) b
  by_cases h : b = a <;> simp_all [Memory.erase]

/-- A cache operation over a range: inside it the source's bytes, outside it the old ones. -/
theorem read_splice (dst src : Memory) (lo n a : Nat) :
    (dst.splice src lo n).read a = if lo ≤ a ∧ a < lo + n then src.read a else dst.read a := by
  have h1 := read_filter dst (fun x => decide (x < lo)) a
  have h2 := read_filter src (fun x => decide (lo ≤ x ∧ x < lo + n)) a
  have h3 := read_filter dst (fun x => decide (lo + n ≤ x)) a
  simp only [Memory.splice, read_append]
  rw [h1, h2, h3]
  by_cases ha : a < lo
  · have : ¬ (lo ≤ a) := by omega
    have hc : ¬ (lo + n ≤ a) := by omega
    simp [ha, this, hc]
  · by_cases hb : a < lo + n
    · have : ¬ (lo + n ≤ a) := by omega
      have h : lo ≤ a := by omega
      simp [ha, hb, this, h]
    · have : lo + n ≤ a := by omega
      simp [ha, hb, this]

theorem read_copyByte (dst src : Memory) (a b : Nat) :
    (dst.copyByte src a).read b = if b = a then src.read b else dst.read b := by
  unfold Memory.copyByte
  split <;> by_cases h : b = a <;> simp_all [read_write, read_erase]

/-! ### The canonical form -/

theorem mem_write {m : Memory} {a : Nat} {v : Byte} {c : Host.Cell} (h : c ∈ m.write a v) : c = (a, v) ∨ c ∈ m := by
  induction m with
  | nil => simpa [Memory.write] using h
  | cons d m ih =>
    obtain ⟨k, w⟩ := d
    unfold Memory.write at h
    split at h
    · simpa using h
    · split at h
      · simp at h ⊢; tauto
      · simp at h ⊢; rcases h with h | h
        · exact .inr (.inl h)
        · rcases ih h with h | h <;> tauto

theorem wf_write {m : Memory} (h : m.wf) {a : Nat} (ha : a < 2 ^ 32) (v : Byte) : (m.write a v).wf := by
  refine ⟨?_, ?_⟩
  · have hs := h.1
    clear h
    induction m with
    | nil => simp [Memory.write]
    | cons d m ih =>
      obtain ⟨k, w⟩ := d
      rw [List.pairwise_cons] at hs
      unfold Memory.write
      split
      · refine List.pairwise_cons.2 ⟨?_, List.pairwise_cons.2 hs⟩
        intro c hc
        rcases List.mem_cons.1 hc with rfl | hc
        · assumption
        · have := hs.1 c hc; dsimp at *; omega
      · split
        · subst_vars; exact List.pairwise_cons.2 ⟨hs.1, hs.2⟩
        · refine List.pairwise_cons.2 ⟨?_, ih hs.2⟩
          intro c hc
          rcases mem_write hc with rfl | hc
          · dsimp at *; omega
          · exact hs.1 c hc
  · intro c hc
    rcases mem_write hc with rfl | hc
    · exact ha
    · exact h.2 c hc

theorem wf_writeLE {m : Memory} (h : m.wf) (a : Word) (n : Nat) (v : Word) : (m.writeLE a n v).wf := by
  induction n generalizing m a v with
  | zero => exact h
  | succ n ih => exact ih (wf_write h a.isLt _) _ _

theorem wf_fillZero {m : Memory} (h : m.wf) (a : Word) (n : Nat) : (m.fillZero a n).wf := by
  induction n generalizing m a with
  | zero => exact h
  | succ n ih => exact ih (wf_write h a.isLt _) _

theorem wf_filter {m : Memory} (h : m.wf) (p : Host.Cell → Bool) : Memory.wf (m.filter p) :=
  ⟨h.1.filter p, fun c hc => h.2 c (List.mem_of_mem_filter hc)⟩

theorem wf_erase {m : Memory} (h : m.wf) (a : Nat) : (m.erase a).wf := wf_filter h _

theorem wf_splice {dst src : Memory} (hd : dst.wf) (hs : src.wf) (lo n : Nat) : (dst.splice src lo n).wf := by
  refine ⟨?_, ?_⟩
  · unfold Memory.splice
    refine List.pairwise_append.2 ⟨List.pairwise_append.2 ⟨hd.1.filter _, hs.1.filter _, ?_⟩, hd.1.filter _, ?_⟩
    · intro x hx y hy
      simp at hx hy
      omega
    · intro x hx y hy
      simp at hx hy
      omega
  · intro c hc
    simp [Memory.splice] at hc
    rcases hc with hc | hc | hc
    · exact hd.2 c hc.1
    · exact hs.2 c hc.1
    · exact hd.2 c hc.1

theorem read_mem {m : Memory} {a : Nat} {b : Byte} (h : m.read a = some b) : (a, b) ∈ m := by
  induction m with
  | nil => simp [Memory.read] at h
  | cons c m ih =>
    obtain ⟨k, w⟩ := c
    unfold Memory.read at h
    split at h
    · subst_vars; simp at h; simp [h]
    · exact List.mem_cons_of_mem _ (ih h)

theorem wf_copyByte {dst src : Memory} (hd : dst.wf) (hs : src.wf) (a : Nat) : (dst.copyByte src a).wf := by
  unfold Memory.copyByte
  split
  · rename_i b h
    exact wf_write hd (hs.2 _ (read_mem h)) _
  · exact wf_erase hd a

/-! ### The addresses still to be written back -/

theorem mem_addrAdd (d : List Nat) (a b : Nat) : b ∈ addrAdd d a ↔ b = a ∨ b ∈ d := by
  induction d with
  | nil => simp [addrAdd]
  | cons k d ih =>
    unfold addrAdd
    split
    · simp
    · split
      · subst_vars; simp
      · simp only [List.mem_cons, ih]; tauto

theorem mem_addrDrop (d : List Nat) (lo n b : Nat) : b ∈ addrDrop d lo n ↔ b ∈ d ∧ ¬(lo ≤ b ∧ b < lo + n) := by
  simp only [addrDrop, List.mem_filter, decide_eq_true_eq]
  constructor <;> rintro ⟨h, h'⟩ <;> exact ⟨h, by omega⟩

theorem addrsWf_add {d : List Nat} (h : addrsWf d) {a : Nat} (ha : a < 2 ^ 32) : addrsWf (addrAdd d a) := by
  refine ⟨?_, fun b hb => ?_⟩
  · obtain ⟨hs, -⟩ := h
    induction d with
    | nil => simp [addrAdd]
    | cons k d ih =>
      rw [List.pairwise_cons] at hs
      unfold addrAdd
      split
      · refine List.pairwise_cons.2 ⟨fun c hc => ?_, List.pairwise_cons.2 hs⟩
        rcases List.mem_cons.1 hc with rfl | hc
        · assumption
        · have := hs.1 c hc; omega
      · split
        · exact List.pairwise_cons.2 hs
        · refine List.pairwise_cons.2 ⟨fun c hc => ?_, ih hs.2⟩
          rcases (mem_addrAdd d a c).1 hc with rfl | hc
          · omega
          · exact hs.1 c hc
  · rcases (mem_addrAdd d a b).1 hb with rfl | hb
    · exact ha
    · exact h.2 b hb

theorem addrsWf_addRange {d : List Nat} (h : addrsWf d) (a : Word) (n : Nat) : addrsWf (addrAddRange d a n) := by
  induction n generalizing d a with
  | zero => exact h
  | succ n ih => exact ih (addrsWf_add h a.isLt) _

theorem addrsWf_drop {d : List Nat} (h : addrsWf d) (lo n : Nat) : addrsWf (addrDrop d lo n) :=
  ⟨h.1.filter _, fun b hb => h.2 b (List.mem_of_mem_filter hb)⟩

end Sys2Proof.Machine
end

