-- ==== Sys2Proof/Laws/State.lean ====
section
/-! SUPPORT. One law per update of the state: what it sets, and that it leaves every other field alone. True by
definition; later proofs rewrite with these and never unfold an update. -/

namespace Sys2Proof.Machine

@[simp] theorem emit_fields (e : Event) (s : State) :
    (emit e s).cfg = s.cfg ∧ (emit e s).st = s.st ∧ (emit e s).pos = s.pos ∧ (emit e s).ret = s.ret ∧
    (emit e s).home = s.home ∧ (emit e s).cur = s.cur ∧ (emit e s).work = s.work ∧ (emit e s).h = s.h ∧
    (emit e s).slots = s.slots ∧ (emit e s).ev = s.ev ∧ (emit e s).ctl = s.ctl ∧ (emit e s).pwr = s.pwr ∧
    (emit e s).irq = s.irq ∧ (emit e s).mem = s.mem ∧ (emit e s).dev = s.dev ∧ (emit e s).dirty = s.dirty ∧
    (emit e s).live = s.live ∧ (emit e s).tableInFlight = s.tableInFlight ∧ (emit e s).inFlight = s.inFlight ∧
    (emit e s).blockGone = s.blockGone ∧ (emit e s).offer = s.offer ∧ (emit e s).env = s.env ∧
    (emit e s).trace = .caller e :: s.trace := by
  and_intros <;> rfl

@[simp] theorem emitIrq_fields (e : Event) (s : State) :
    (emitIrq e s).cfg = s.cfg ∧ (emitIrq e s).st = s.st ∧ (emitIrq e s).pos = s.pos ∧ (emitIrq e s).ret = s.ret ∧
    (emitIrq e s).home = s.home ∧ (emitIrq e s).cur = s.cur ∧ (emitIrq e s).work = s.work ∧ (emitIrq e s).h = s.h ∧
    (emitIrq e s).slots = s.slots ∧ (emitIrq e s).ev = s.ev ∧ (emitIrq e s).ctl = s.ctl ∧
    (emitIrq e s).pwr = s.pwr ∧ (emitIrq e s).irq = s.irq ∧ (emitIrq e s).mem = s.mem ∧ (emitIrq e s).dev = s.dev ∧
    (emitIrq e s).dirty = s.dirty ∧ (emitIrq e s).live = s.live ∧ (emitIrq e s).tableInFlight = s.tableInFlight ∧
    (emitIrq e s).inFlight = s.inFlight ∧ (emitIrq e s).blockGone = s.blockGone ∧ (emitIrq e s).offer = s.offer ∧
    (emitIrq e s).env = s.env ∧ (emitIrq e s).trace = .irq e :: s.trace := by
  and_intros <;> rfl

@[simp] theorem goTo_fields (p : Phase) (q : Nat) (s : State) :
    (goTo p q s).cfg = s.cfg ∧ (goTo p q s).st = p ∧ (goTo p q s).pos = q ∧ (goTo p q s).ret = s.ret ∧
    (goTo p q s).home = s.home ∧ (goTo p q s).cur = s.cur ∧ (goTo p q s).work = s.work ∧ (goTo p q s).h = s.h ∧
    (goTo p q s).slots = s.slots ∧ (goTo p q s).ev = s.ev ∧ (goTo p q s).ctl = s.ctl ∧ (goTo p q s).pwr = s.pwr ∧
    (goTo p q s).irq = s.irq ∧ (goTo p q s).mem = s.mem ∧ (goTo p q s).dev = s.dev ∧ (goTo p q s).dirty = s.dirty ∧
    (goTo p q s).live = s.live ∧ (goTo p q s).tableInFlight = s.tableInFlight ∧ (goTo p q s).inFlight = s.inFlight ∧
    (goTo p q s).blockGone = s.blockGone ∧ (goTo p q s).offer = s.offer ∧ (goTo p q s).env = s.env ∧
    (goTo p q s).trace = s.trace := by
  and_intros <;> rfl

@[simp] theorem afterDraw_fields (s : State) :
    (afterDraw s).cfg = s.cfg ∧ (afterDraw s).st = s.st ∧ (afterDraw s).pos = s.pos ∧ (afterDraw s).ret = s.ret ∧
    (afterDraw s).home = s.home ∧ (afterDraw s).cur = s.cur ∧ (afterDraw s).work = s.work ∧ (afterDraw s).h = s.h ∧
    (afterDraw s).slots = s.slots ∧ (afterDraw s).ev = s.ev ∧ (afterDraw s).ctl = s.ctl ∧
    (afterDraw s).pwr = s.pwr ∧ (afterDraw s).irq = s.irq ∧ (afterDraw s).mem = s.mem ∧ (afterDraw s).dev = s.dev ∧
    (afterDraw s).dirty = s.dirty ∧ (afterDraw s).live = s.live ∧ (afterDraw s).tableInFlight = s.tableInFlight ∧
    (afterDraw s).inFlight = s.inFlight ∧ (afterDraw s).blockGone = s.blockGone ∧ (afterDraw s).offer = s.offer ∧
    (afterDraw s).env = { s.env with reads := s.env.reads.tail, draws := s.env.draws + 1 } ∧
    (afterDraw s).trace = s.trace := by
  and_intros <;> rfl

@[simp] theorem regWrite_fields (r : Reg) (v : Word) (s : State) :
    (regWrite r v s).cfg = s.cfg ∧ (regWrite r v s).st = s.st ∧ (regWrite r v s).pos = s.pos ∧
    (regWrite r v s).ret = s.ret ∧ (regWrite r v s).home = s.home ∧ (regWrite r v s).cur = s.cur ∧
    (regWrite r v s).work = s.work ∧ (regWrite r v s).h = s.h ∧ (regWrite r v s).slots = s.slots ∧
    (regWrite r v s).ev = s.ev ∧ (regWrite r v s).ctl = s.ctl.written s.cfg.bits r (v &&& r.bits) ∧
    (regWrite r v s).pwr = s.pwr ∧ (regWrite r v s).irq = s.irq ∧ (regWrite r v s).mem = s.mem ∧
    (regWrite r v s).dev = s.dev ∧ (regWrite r v s).dirty = s.dirty ∧ (regWrite r v s).live = s.live ∧
    (regWrite r v s).tableInFlight = s.tableInFlight ∧
    (regWrite r v s).inFlight = (if r = .cmd then some (v.setWidth 16) else s.inFlight) ∧
    (regWrite r v s).blockGone = s.blockGone ∧ (regWrite r v s).offer = s.offer ∧ (regWrite r v s).env = s.env ∧
    (regWrite r v s).trace = .caller (.regWrite r (v &&& r.bits)) :: s.trace := by
  and_intros <;> rfl

@[simp] theorem pwrWrite_fields (r : PwrReg) (v : Word) (s : State) :
    (pwrWrite r v s).cfg = s.cfg ∧ (pwrWrite r v s).st = s.st ∧ (pwrWrite r v s).pos = s.pos ∧
    (pwrWrite r v s).ret = s.ret ∧ (pwrWrite r v s).home = s.home ∧ (pwrWrite r v s).cur = s.cur ∧
    (pwrWrite r v s).work = s.work ∧ (pwrWrite r v s).h = s.h ∧ (pwrWrite r v s).slots = s.slots ∧
    (pwrWrite r v s).ev = s.ev ∧ (pwrWrite r v s).ctl = s.ctl ∧ (pwrWrite r v s).pwr = s.pwr.written r v ∧
    (pwrWrite r v s).irq = s.irq ∧ (pwrWrite r v s).mem = s.mem ∧ (pwrWrite r v s).dev = s.dev ∧
    (pwrWrite r v s).dirty = s.dirty ∧ (pwrWrite r v s).live = s.live ∧
    (pwrWrite r v s).tableInFlight = s.tableInFlight ∧ (pwrWrite r v s).inFlight = s.inFlight ∧
    (pwrWrite r v s).blockGone = s.blockGone ∧ (pwrWrite r v s).offer = s.offer ∧ (pwrWrite r v s).env = s.env ∧
    (pwrWrite r v s).trace = .caller (.pwrWrite r v) :: s.trace := by
  and_intros <;> rfl

@[simp] theorem memWrite_fields (a : Word) (n : Nat) (v : Word) (s : State) :
    (memWrite a n v s).cfg = s.cfg ∧ (memWrite a n v s).st = s.st ∧ (memWrite a n v s).pos = s.pos ∧
    (memWrite a n v s).ret = s.ret ∧ (memWrite a n v s).home = s.home ∧ (memWrite a n v s).cur = s.cur ∧
    (memWrite a n v s).work = s.work ∧ (memWrite a n v s).h = s.h ∧ (memWrite a n v s).slots = s.slots ∧
    (memWrite a n v s).ev = s.ev ∧ (memWrite a n v s).ctl = s.ctl ∧ (memWrite a n v s).pwr = s.pwr ∧
    (memWrite a n v s).irq = s.irq ∧ (memWrite a n v s).mem = s.mem.writeLE a n v ∧ (memWrite a n v s).dev = s.dev ∧
    (memWrite a n v s).dirty = addrAddRange s.dirty a n ∧ (memWrite a n v s).live = s.live ∧
    (memWrite a n v s).tableInFlight = s.tableInFlight ∧ (memWrite a n v s).inFlight = s.inFlight ∧
    (memWrite a n v s).blockGone = s.blockGone ∧ (memWrite a n v s).offer = s.offer ∧
    (memWrite a n v s).env = s.env ∧ (memWrite a n v s).trace = .caller (.memWrite a n v) :: s.trace := by
  and_intros <;> rfl

@[simp] theorem cacheClean_fields (a : Word) (n : Nat) (s : State) :
    (cacheClean a n s).cfg = s.cfg ∧ (cacheClean a n s).st = s.st ∧ (cacheClean a n s).pos = s.pos ∧
    (cacheClean a n s).ret = s.ret ∧ (cacheClean a n s).home = s.home ∧ (cacheClean a n s).cur = s.cur ∧
    (cacheClean a n s).work = s.work ∧ (cacheClean a n s).h = s.h ∧ (cacheClean a n s).slots = s.slots ∧
    (cacheClean a n s).ev = s.ev ∧ (cacheClean a n s).ctl = s.ctl ∧ (cacheClean a n s).pwr = s.pwr ∧
    (cacheClean a n s).irq = s.irq ∧ (cacheClean a n s).mem = s.mem ∧
    (cacheClean a n s).dev = s.dev.splice s.mem a.toNat n ∧ (cacheClean a n s).dirty = addrDrop s.dirty a.toNat n ∧
    (cacheClean a n s).live = s.live ∧ (cacheClean a n s).tableInFlight = s.tableInFlight ∧
    (cacheClean a n s).inFlight = s.inFlight ∧ (cacheClean a n s).blockGone = s.blockGone ∧
    (cacheClean a n s).offer = s.offer ∧ (cacheClean a n s).env = s.env ∧
    (cacheClean a n s).trace = .caller (.cacheClean a n) :: s.trace := by
  and_intros <;> rfl

@[simp] theorem cacheInvalidate_fields (a : Word) (n : Nat) (s : State) :
    (cacheInvalidate a n s).cfg = s.cfg ∧ (cacheInvalidate a n s).st = s.st ∧ (cacheInvalidate a n s).pos = s.pos ∧
    (cacheInvalidate a n s).ret = s.ret ∧ (cacheInvalidate a n s).home = s.home ∧
    (cacheInvalidate a n s).cur = s.cur ∧ (cacheInvalidate a n s).work = s.work ∧ (cacheInvalidate a n s).h = s.h ∧
    (cacheInvalidate a n s).slots = s.slots ∧ (cacheInvalidate a n s).ev = s.ev ∧
    (cacheInvalidate a n s).ctl = s.ctl ∧ (cacheInvalidate a n s).pwr = s.pwr ∧
    (cacheInvalidate a n s).irq = s.irq ∧ (cacheInvalidate a n s).mem = s.mem.splice s.dev a.toNat n ∧
    (cacheInvalidate a n s).dev = s.dev ∧ (cacheInvalidate a n s).dirty = addrDrop s.dirty a.toNat n ∧
    (cacheInvalidate a n s).live = s.live ∧ (cacheInvalidate a n s).tableInFlight = s.tableInFlight ∧
    (cacheInvalidate a n s).inFlight = s.inFlight ∧ (cacheInvalidate a n s).blockGone = s.blockGone ∧
    (cacheInvalidate a n s).offer = s.offer ∧ (cacheInvalidate a n s).env = s.env ∧
    (cacheInvalidate a n s).trace = .caller (.cacheInvalidate a n) :: s.trace := by
  and_intros <;> rfl

@[simp] theorem free_fields (t : Word) (s : State) :
    (free t s).cfg = s.cfg ∧ (free t s).st = s.st ∧ (free t s).pos = s.pos ∧ (free t s).ret = s.ret ∧
    (free t s).home = s.home ∧ (free t s).cur = s.cur ∧ (free t s).work = { s.work with table := none } ∧
    (free t s).h = s.h ∧ (free t s).slots = s.slots ∧ (free t s).ev = s.ev ∧ (free t s).ctl = s.ctl ∧
    (free t s).pwr = s.pwr ∧ (free t s).irq = s.irq ∧ (free t s).mem = s.mem ∧ (free t s).dev = s.dev ∧
    (free t s).dirty = s.dirty ∧ (free t s).live = s.live.filter (fun b => b.1 ≠ t) ∧
    (free t s).tableInFlight = none ∧ (free t s).inFlight = s.inFlight ∧ (free t s).blockGone = s.blockGone ∧
    (free t s).offer = s.offer ∧ (free t s).env = s.env ∧ (free t s).trace = .caller (.free t) :: s.trace := by
  and_intros <;> rfl

@[simp] theorem delay_fields (us : Nat) (s : State) :
    (delay us s).cfg = s.cfg ∧ (delay us s).st = s.st ∧ (delay us s).pos = s.pos ∧ (delay us s).ret = s.ret ∧
    (delay us s).home = s.home ∧ (delay us s).cur = s.cur ∧ (delay us s).work = s.work ∧ (delay us s).h = s.h ∧
    (delay us s).slots = s.slots ∧ (delay us s).ev = s.ev ∧ (delay us s).ctl = s.ctl ∧ (delay us s).pwr = s.pwr ∧
    (delay us s).irq = s.irq ∧ (delay us s).mem = s.mem ∧ (delay us s).dev = s.dev ∧ (delay us s).dirty = s.dirty ∧
    (delay us s).live = s.live ∧ (delay us s).tableInFlight = s.tableInFlight ∧ (delay us s).inFlight = s.inFlight ∧
    (delay us s).blockGone = s.blockGone ∧ (delay us s).offer = s.offer ∧ (delay us s).env = s.env ∧
    (delay us s).trace = .caller (.delay us) :: s.trace := by
  and_intros <;> rfl

@[simp] theorem irqUnmask_fields (s : State) :
    (irqUnmask s).cfg = s.cfg ∧ (irqUnmask s).st = s.st ∧ (irqUnmask s).pos = s.pos ∧ (irqUnmask s).ret = s.ret ∧
    (irqUnmask s).home = s.home ∧ (irqUnmask s).cur = s.cur ∧ (irqUnmask s).work = s.work ∧ (irqUnmask s).h = s.h ∧
    (irqUnmask s).slots = s.slots ∧ (irqUnmask s).ev = s.ev ∧ (irqUnmask s).ctl = s.ctl ∧
    (irqUnmask s).pwr = s.pwr ∧ (irqUnmask s).irq = { s.irq with masked := false } ∧ (irqUnmask s).mem = s.mem ∧
    (irqUnmask s).dev = s.dev ∧ (irqUnmask s).dirty = s.dirty ∧ (irqUnmask s).live = s.live ∧
    (irqUnmask s).tableInFlight = s.tableInFlight ∧ (irqUnmask s).inFlight = s.inFlight ∧
    (irqUnmask s).blockGone = s.blockGone ∧ (irqUnmask s).offer = s.offer ∧ (irqUnmask s).env = s.env ∧
    (irqUnmask s).trace = .caller (.irqUnmask s.cfg.pwrIrqLine) :: s.trace := by
  and_intros <;> rfl

@[simp] theorem eventArm_fields (s : State) :
    (eventArm s).cfg = s.cfg ∧ (eventArm s).st = s.st ∧ (eventArm s).pos = s.pos ∧ (eventArm s).ret = s.ret ∧
    (eventArm s).home = s.home ∧ (eventArm s).cur = s.cur ∧ (eventArm s).work = s.work ∧ (eventArm s).h = s.h ∧
    (eventArm s).slots = s.slots ∧ (eventArm s).ev = false ∧ (eventArm s).ctl = s.ctl ∧ (eventArm s).pwr = s.pwr ∧
    (eventArm s).irq = s.irq ∧ (eventArm s).mem = s.mem ∧ (eventArm s).dev = s.dev ∧ (eventArm s).dirty = s.dirty ∧
    (eventArm s).live = s.live ∧ (eventArm s).tableInFlight = s.tableInFlight ∧ (eventArm s).inFlight = s.inFlight ∧
    (eventArm s).blockGone = s.blockGone ∧ (eventArm s).offer = s.offer ∧ (eventArm s).env = s.env ∧
    (eventArm s).trace = .caller .eventArm :: s.trace := by
  and_intros <;> rfl

@[simp] theorem eventPass_fields (s : State) :
    (eventPass s).cfg = s.cfg ∧ (eventPass s).st = s.st ∧ (eventPass s).pos = s.pos ∧ (eventPass s).ret = s.ret ∧
    (eventPass s).home = s.home ∧ (eventPass s).cur = s.cur ∧ (eventPass s).work = s.work ∧ (eventPass s).h = s.h ∧
    (eventPass s).slots = s.slots ∧ (eventPass s).ev = false ∧ (eventPass s).ctl = s.ctl ∧
    (eventPass s).pwr = s.pwr ∧ (eventPass s).irq = s.irq ∧ (eventPass s).mem = s.mem ∧ (eventPass s).dev = s.dev ∧
    (eventPass s).dirty = s.dirty ∧ (eventPass s).live = s.live ∧ (eventPass s).tableInFlight = s.tableInFlight ∧
    (eventPass s).inFlight = s.inFlight ∧ (eventPass s).blockGone = s.blockGone ∧ (eventPass s).offer = s.offer ∧
    (eventPass s).env = s.env ∧ (eventPass s).trace = .caller .eventWait :: s.trace := by
  and_intros <;> rfl

@[simp] theorem call_fields (f p : Phase) (q : Nat) (s : State) :
    (call f p q s).cfg = s.cfg ∧ (call f p q s).st = f ∧ (call f p q s).pos = 0 ∧ (call f p q s).ret = some (p, q) ∧
    (call f p q s).home = s.home ∧ (call f p q s).cur = s.cur ∧ (call f p q s).work = s.work ∧
    (call f p q s).h = s.h ∧ (call f p q s).slots = s.slots ∧ (call f p q s).ev = s.ev ∧
    (call f p q s).ctl = s.ctl ∧ (call f p q s).pwr = s.pwr ∧ (call f p q s).irq = s.irq ∧
    (call f p q s).mem = s.mem ∧ (call f p q s).dev = s.dev ∧ (call f p q s).dirty = s.dirty ∧
    (call f p q s).live = s.live ∧ (call f p q s).tableInFlight = s.tableInFlight ∧
    (call f p q s).inFlight = s.inFlight ∧ (call f p q s).blockGone = s.blockGone ∧ (call f p q s).offer = s.offer ∧
    (call f p q s).env = s.env ∧ (call f p q s).trace = s.trace := by
  and_intros <;> rfl

@[simp] theorem fatalAbort_fields (s : State) :
    (fatalAbort s).cfg = s.cfg ∧ (fatalAbort s).st = .aborted ∧ (fatalAbort s).pos = 0 ∧ (fatalAbort s).ret = none ∧
    (fatalAbort s).home = s.home ∧ (fatalAbort s).cur = none ∧ (fatalAbort s).work = s.work ∧
    (fatalAbort s).h = s.h ∧ (fatalAbort s).slots = s.slots ∧ (fatalAbort s).ev = s.ev ∧
    (fatalAbort s).ctl = s.ctl ∧ (fatalAbort s).pwr = s.pwr ∧ (fatalAbort s).irq = s.irq ∧
    (fatalAbort s).mem = s.mem ∧ (fatalAbort s).dev = s.dev ∧ (fatalAbort s).dirty = s.dirty ∧
    (fatalAbort s).live = s.live ∧ (fatalAbort s).tableInFlight = s.tableInFlight ∧
    (fatalAbort s).inFlight = s.inFlight ∧ (fatalAbort s).blockGone = s.blockGone ∧ (fatalAbort s).offer = s.offer ∧
    (fatalAbort s).env = s.env ∧ (fatalAbort s).trace = s.trace := by
  and_intros <;> rfl

@[simp] theorem dropTurn_fields (s : State) :
    (dropTurn s).cfg = s.cfg ∧ (dropTurn s).st = s.st ∧ (dropTurn s).pos = s.pos ∧ (dropTurn s).ret = s.ret ∧
    (dropTurn s).home = s.home ∧ (dropTurn s).cur = s.cur ∧ (dropTurn s).work = s.work ∧ (dropTurn s).h = s.h ∧
    (dropTurn s).slots = s.slots ∧ (dropTurn s).ev = s.ev ∧ (dropTurn s).ctl = s.ctl ∧ (dropTurn s).pwr = s.pwr ∧
    (dropTurn s).irq = s.irq ∧ (dropTurn s).mem = s.mem ∧ (dropTurn s).dev = s.dev ∧ (dropTurn s).dirty = s.dirty ∧
    (dropTurn s).live = s.live ∧ (dropTurn s).tableInFlight = s.tableInFlight ∧ (dropTurn s).inFlight = s.inFlight ∧
    (dropTurn s).blockGone = s.blockGone ∧ (dropTurn s).offer = s.offer ∧
    (dropTurn s).env = { s.env with sched := s.env.sched.tail } ∧ (dropTurn s).trace = s.trace := by
  and_intros <;> rfl

@[simp] theorem regRead_fields (r : Reg) (s : State) :
    (regRead r s).cfg = s.cfg ∧ (regRead r s).st = s.st ∧ (regRead r s).pos = s.pos ∧ (regRead r s).ret = s.ret ∧
    (regRead r s).home = s.home ∧ (regRead r s).cur = s.cur ∧ (regRead r s).work = s.work ∧ (regRead r s).h = s.h ∧
    (regRead r s).slots = s.slots ∧ (regRead r s).ev = s.ev ∧ (regRead r s).pwr = s.pwr ∧
    (regRead r s).irq = s.irq ∧ (regRead r s).mem = s.mem ∧ (regRead r s).dev = s.dev ∧
    (regRead r s).dirty = s.dirty ∧ (regRead r s).live = s.live ∧ (regRead r s).tableInFlight = s.tableInFlight ∧
    (regRead r s).inFlight = s.inFlight ∧ (regRead r s).blockGone = s.blockGone ∧ (regRead r s).offer = s.offer ∧
    (regRead r s).ctl = s.ctl.put r (readValue r s) ∧
    (regRead r s).trace = .caller (.regRead r (readValue r s)) :: s.trace ∧ (regRead r s).env.sched = s.env.sched ∧
    (regRead r s).env.allocs = s.env.allocs := by
  unfold regRead
  split <;> simp

@[simp] theorem takePwrIrq_fields (s : State) :
    (takePwrIrq s).cfg = s.cfg ∧ (takePwrIrq s).st = s.st ∧ (takePwrIrq s).pos = s.pos ∧
    (takePwrIrq s).ret = s.ret ∧ (takePwrIrq s).home = s.home ∧ (takePwrIrq s).cur = s.cur ∧
    (takePwrIrq s).work = s.work ∧ (takePwrIrq s).h = s.h ∧ (takePwrIrq s).slots = s.slots ∧
    (takePwrIrq s).ctl = s.ctl ∧ (takePwrIrq s).mem = s.mem ∧ (takePwrIrq s).dev = s.dev ∧
    (takePwrIrq s).dirty = s.dirty ∧ (takePwrIrq s).live = s.live ∧ (takePwrIrq s).tableInFlight = s.tableInFlight ∧
    (takePwrIrq s).inFlight = s.inFlight ∧ (takePwrIrq s).blockGone = s.blockGone ∧ (takePwrIrq s).offer = s.offer ∧
    (takePwrIrq s).ev = true := by
  simp [takePwrIrq]

@[simp] theorem alloc_fields (n : Nat) (b : Word) (l : Nat) (z : Bool) (s : State) :
    (alloc n b l z s).cfg = s.cfg ∧ (alloc n b l z s).st = s.st ∧ (alloc n b l z s).pos = s.pos ∧
    (alloc n b l z s).ret = s.ret ∧ (alloc n b l z s).home = s.home ∧ (alloc n b l z s).cur = s.cur ∧
    (alloc n b l z s).work = s.work ∧ (alloc n b l z s).h = s.h ∧ (alloc n b l z s).slots = s.slots ∧
    (alloc n b l z s).ev = s.ev ∧ (alloc n b l z s).ctl = s.ctl ∧ (alloc n b l z s).pwr = s.pwr ∧
    (alloc n b l z s).irq = s.irq ∧ (alloc n b l z s).dev = s.dev ∧
    (alloc n b l z s).tableInFlight = s.tableInFlight ∧ (alloc n b l z s).inFlight = s.inFlight ∧
    (alloc n b l z s).blockGone = s.blockGone ∧ (alloc n b l z s).offer = s.offer := by
  simp [alloc]

end Sys2Proof.Machine
end

