-- ==== Sys2Proof/Laws/Registers.lean ====
section
/-! SUPPORT. The laws of the register file: a register holds what was last put there, cut to its width, and no other
register moves; a read answers at the register's width. -/

namespace Sys2Proof.Machine

theorem and_low8 (v : Word) : v &&& 255#32 = BitVec.setWidth 32 (BitVec.setWidth 8 v) := by
  apply BitVec.eq_of_toNat_eq
  have := Nat.and_two_pow_sub_one_eq_mod v.toNat 8
  simp at *
  omega

theorem and_low16 (v : Word) : v &&& 65535#32 = BitVec.setWidth 32 (BitVec.setWidth 16 v) := by
  apply BitVec.eq_of_toNat_eq
  have := Nat.and_two_pow_sub_one_eq_mod v.toNat 16
  simp at *
  omega

theorem and_all32 (v : Word) : v &&& 4294967295#32 = v := by
  apply BitVec.eq_of_toNat_eq
  have := Nat.and_two_pow_sub_one_eq_mod v.toNat 32
  simp at *
  omega

theorem get_put (c : Ctl) (r q : Reg) (v : Word) : (c.put r v).get q = if q = r then v &&& r.bits else c.get q := by
  cases r <;> cases q <;>
    simp [Ctl.put, Ctl.get, Reg.bits, Reg.width, and_low8, and_low16, and_all32]

theorem get_put_same (c : Ctl) (r : Reg) (v : Word) : (c.put r v).get r = v &&& r.bits := by simp [get_put]

theorem get_put_ne {r q : Reg} (c : Ctl) (v : Word) (h : q ≠ r) : (c.put r v).get q = c.get q := by simp [get_put, h]

theorem known_put (c : Ctl) (r q : Reg) (v : Word) : (c.put r v).known q = (decide (q = r) || c.known q) := by
  cases r <;> cases q <;> simp [Ctl.put, Ctl.known]

@[simp] theorem get_forget (c : Ctl) (r : Reg) : c.forget.get r = c.get r := by cases r <;> rfl

@[simp] theorem known_forget (c : Ctl) (r : Reg) : c.forget.known r = !r.storage := by cases r <;> rfl

theorem get_width (c : Ctl) (r : Reg) : c.get r &&& r.bits = c.get r := by
  cases r <;> simp [Ctl.get, Reg.bits, Reg.width, and_low8, and_low16, and_all32]

theorem known_volatile (c : Ctl) {r : Reg} (h : r.storage = false) : c.known r = true := by
  cases r <;> simp_all [Ctl.known, Reg.storage]

/-- What a write does to a storage register that has no volatile bit. -/
theorem written_storage (b : Bits) (c : Ctl) {r : Reg} (v : Word) (h : r.storage = true) (hc : r ≠ .clkCtrl) :
    c.written b r v = c.put r v := by
  cases r <;> simp_all [Ctl.written, Reg.storage]

theorem written_cmd (b : Bits) (c : Ctl) (v : Word) : c.written b .cmd v = c.put .cmd v := rfl

/-- The volatile bits of a register lie inside it. -/
theorem volatileBits_width (b : Bits) (r : Reg) : r.volatileBits b &&& r.bits = r.volatileBits b := by
  cases r <;> simp [Reg.volatileBits, Reg.storage, Reg.bits, Reg.width, and_low16]

theorem drawnBits_width (r : Reg) (s : State) : drawnBits r s &&& r.bits = drawnBits r s := by
  unfold drawnBits
  split
  · exact volatileBits_width _ r
  · simp

/-- Bits of a value read lie inside the register. -/
theorem readValue_width (r : Reg) (s : State) : readValue r s &&& r.bits = readValue r s := by
  unfold readValue
  rw [BitVec.and_or_distrib_right, BitVec.and_assoc, BitVec.and_comm _ r.bits, ← BitVec.and_assoc, get_width,
    BitVec.and_assoc, drawnBits_width]

/-- A read leaves in the register what it answered. -/
theorem get_regRead_same (r : Reg) (s : State) : (regRead r s).ctl.get r = readValue r s := by
  simp [get_put, readValue_width]

/-- A volatile register reads as the environment answers. -/
theorem readValue_volatile {r : Reg} (s : State) (h : r.storage = false) :
    readValue r s = drawValue r.number s &&& r.bits := by
  have hv : r.volatileBits s.cfg.bits = r.bits := by cases r <;> simp_all [Reg.volatileBits, Reg.storage]
  have hz : s.ctl.get r &&& ~~~ r.bits = 0 := by
    rw [← get_width s.ctl r, BitVec.and_assoc]; simp
  simp [readValue, drawnBits, known_volatile s.ctl h, hv, hz]

end Sys2Proof.Machine
end

