-- ==== Sys2Proof/Laws/Run.lean ====
section
/-! SUPPORT. What the shared operations can do: running, accepting and refusing an operation, returning from one, and
what one turn of the schedule is; the one store of `WriteEntry` and the default layout of an entry. -/

namespace Sys2Proof.Machine

theorem runOp_running {i : Instr} {start next : State → Result} {s : State} (h : s.cur = some i) :
    runOp i start next s = next s := by simp [runOp, h]

theorem runOp_busy {i j : Instr} {start next : State → Result} {s : State} (h : s.cur = some j) (hj : j ≠ i) :
    runOp i start next s = .refused .portBusy := by simp [runOp, h, hj]

theorem runOp_aborted {i : Instr} {start next : State → Result} {s : State} (h : s.cur = none) (ha : s.st = .aborted) :
    runOp i start next s = .next s := by simp [runOp, h, ha]

theorem runOp_accepted {i : Instr} {start next : State → Result} {s : State} (h : s.cur = none) (ha : s.st ≠ .aborted)
    (hi : admission i s = none) : runOp i start next s = start s := by simp [runOp, h, ha, hi]

/-- Everything a request can do: go on, wait in ABORTED, be refused, or start where the admission lets it. -/
theorem runOp_cases (i : Instr) (start next : State → Result) (s : State) :
    (s.cur = some i ∧ runOp i start next s = next s) ∨
    (∃ r, runOp i start next s = .refused r) ∨
    (s.cur = none ∧ s.st = .aborted ∧ runOp i start next s = .next s) ∨
    (s.cur = none ∧ (s.st = .uninit ∨ s.st = .idle) ∧ s.blockGone = false ∧ admission i s = none ∧
      runOp i start next s = start s) := by
  cases hc : s.cur with
  | some j =>
    by_cases hj : j = i
    · subst hj; exact .inl ⟨rfl, runOp_running hc⟩
    · exact .inr (.inl ⟨_, runOp_busy hc hj⟩)
  | none =>
    by_cases ha : s.st = .aborted
    · exact .inr (.inr (.inl ⟨rfl, ha, runOp_aborted hc ha⟩))
    · cases hi : admission i s with
      | some r => exact .inr (.inl ⟨r, by simp [runOp, hc, ha, hi]⟩)
      | none =>
        refine .inr (.inr (.inr ⟨rfl, ?_, ?_, rfl, runOp_accepted hc ha hi⟩))
        · simp only [admission] at hi
          split at hi <;> [cases hi; skip]
          split at hi <;> [cases hi; skip]
          split at hi <;> [cases hi; skip]
          rename_i h; tauto
        · simp only [admission] at hi
          split at hi <;> [cases hi; skip]
          simpa using ‹¬ s.blockGone = true›

theorem finish_port {s : State} (k : Status) (h : s.ret = none) :
    finish k s = { s with st := s.home, pos := 0, cur := none, work := Work.blank, trace := .answer k :: s.trace } := by
  simp [finish, h]

theorem finish_nested {s : State} {p : Phase} {q : Nat} (k : Status) (h : s.ret = some (p, q)) :
    finish k s = { s with st := p, pos := q, ret := none, work := { s.work with inner := some k } } := by
  simp [finish, h]

theorem leave_sequence {s : State} (h : s.ret = none) :
    leave s = { s with st := s.home, pos := 0, cur := none, work := Work.blank } := by simp [leave, h]

theorem leave_nested {s : State} {p : Phase} {q : Nat} (h : s.ret = some (p, q)) :
    leave s = { s with st := p, pos := q, ret := none } := by simp [leave, h]

theorem handOver_sequence {s : State} (r : Record) (h : s.ret = none) :
    handOver r s = { s with st := s.home, pos := 0, cur := none, work := Work.blank, trace := r :: s.trace } := by
  simp [handOver, leave, h]

theorem handOver_nested {s : State} {p : Phase} {q : Nat} (r : Record) (h : s.ret = some (p, q)) :
    handOver r s = { s with st := p, pos := q, ret := none } := by simp [handOver, leave, h]

/-- What offering a word can do: nothing in ABORTED, a refusal, or the recoded word stands on the port. -/
theorem offerWord_cases (o : Offer) (s : State) :
    (s.st = .aborted ∧ offerWord o s = .next s) ∨
    (∃ r, offerWord o s = .refused r) ∨
    (∃ w, s.st ≠ .aborted ∧ s.cur = none ∧ s.offer = none ∧ recoded s.cfg.codes o = .ok w ∧ offerable w = true ∧
      offerWord o s = .next { s with offer := some w }) := by
  unfold offerWord
  split
  · exact .inl ⟨‹_›, rfl⟩
  · split
    · exact .inr (.inl ⟨_, rfl⟩)
    · rename_i ha hb
      simp only [Bool.or_eq_true, Option.isSome_iff_ne_none, ne_eq, not_or, not_not] at hb
      split
      · exact .inr (.inl ⟨_, rfl⟩)
      · split
        · exact .inr (.inr ⟨_, ha, hb.1, hb.2, ‹_›, ‹_›, rfl⟩)
        · exact .inr (.inl ⟨_, rfl⟩)

/-- What a turn of the caller context is. -/
theorem callerStep_cases (s : State) :
    (∃ i, s.cur = some i ∧ callerStep s = exec i s) ∨
    (s.cur = none ∧ callerStep s = .next s) ∨
    (∃ r, callerStep s = .refused r) ∨
    (∃ o i, s.cur = none ∧ s.offer = some o ∧ s.st ≠ .aborted ∧ fetched o = .ok i ∧
      callerStep s = exec i { s with offer := none }) := by
  unfold callerStep
  split
  · rename_i i h; exact .inl ⟨i, h, rfl⟩
  · rename_i h
    split
    · exact .inr (.inl ⟨h, rfl⟩)
    · rename_i o ho
      split
      · exact .inr (.inl ⟨h, rfl⟩)
      · rename_i ha
        split
        · exact .inr (.inr (.inl ⟨_, rfl⟩))
        · rename_i i hf
          split
          · exact .inr (.inl ⟨h, rfl⟩)
          · exact .inr (.inr (.inr ⟨o, i, h, ho, ha, hf, rfl⟩))

/-- The two attributes of the default layout (30_encoding.md R141). -/
@[simp] theorem entryAttr_default (last : Bool) :
    entryAttr EntryLayout.default last = if last then 0x0023 else 0x0021 := by cases last <;> rfl

/-- Everything a write of an entry's field can do: one store, which lies in the eight bytes of the entry where the layout
keeps its fields there. -/
theorem entryWrite_cases (f : Nat) (t : Word) (i : Nat) (addr : Word) (len attr : Half) (s : State) :
    ∃ fo n v, entryWrite f t i addr len attr s = memWrite (entryAddr t i fo) n v s ∧
      (s.cfg.entry.Tiles → fo + n ≤ 8) := by
  unfold entryWrite
  split
  · exact ⟨_, _, _, rfl, fun h => h.2.2.1⟩
  · exact ⟨_, _, _, rfl, fun h => h.2.1⟩
  · exact ⟨_, _, _, rfl, fun h => h.1⟩

/-- What a caller may ask for: a public operation, or CHANGE_FREQUENCY (30_encoding.md R120, R121). -/
theorem isExposed_iff (i : Instr) : isExposed i = true ↔ isPublic i = true ∨ ∃ f, i = .changeFrequency f := by
  cases i <;> simp [isExposed, isPublic]

end Sys2Proof.Machine
end

