-- ==== Sys2Proof/Tests/Slice0.lean ====
section
/-! SUPPORT. The model's own tests: the smoke test of WellFormed, words decoded by hand, small single steps whose expected
values stand in 95_test_vectors.md (named in each docstring) or in the rule cited, and for each obligation with
hypotheses a witness that meets them. -/

namespace Sys2Proof.Tests

open Sys2Proof Sys2Proof.Machine

/-! ### Helpers -/

/-- A configuration with every open parameter given a value, and the small retry bounds of P5 and P6. -/
def testCfg : Cfg where
  regBase        := 0x1000
  off            := Offsets.default
  pwrctlMaskAddr := 0x2000
  pwrctlCtlAddr  := 0x2004
  hcModeAddr     := 0x2008
  pwrIrqLine     := 7
  idleRetryMax   := 3
  cmdRetryMax    := 3
  transRetryMax  := 3
  idleSpacingUs  := 1000
  cmdSpacingUs   := 500
  transSpacingUs := 1000
  maxDiv         := 2046
  maxLine        := 65536
  blockSize      := 512
  cmdTimeoutVal  := 0x0F
  switchCmdIndex := 6
  nrmlIntEnVal   := 0x000B
  errIntEnVal    := 0xFFFF
  pwrIntEnVal    := 0xF
  spinBound      := none
  cacheLine      := 64
  descAlign      := 4
  configOps      := true
  bits           := Bits.default
  codes          := Codes.default
  entry          := EntryLayout.default

/-- The machine right after reset, in that configuration. -/
def fresh : Machine.State := { State.reset with cfg := testCfg }

/-- An idle engine with the record of P1: base rate 200 MHz, current rate 400 kHz. -/
def idle : Machine.State :=
  { fresh with
    st := .idle, home := .idle
    h := ⟨some 200000000, some 0, some false, some true, some 7, some true, some true, some 400000⟩ }

/-- An idle engine that answers everything but has no record. -/
def bare : Machine.State := { fresh with st := .idle, home := .idle }

/-- `i` runs and stands at position `q` of phase `p`. -/
def running (i : Instr) (p : Phase) (q : Nat) (s : Machine.State) : Machine.State :=
  { s with cur := some i, st := p, pos := q }

/-- The environment's next answers to reads. -/
def reading (l : List Word) (s : Machine.State) : Machine.State := { s with env := { s.env with reads := l } }

/-- The allocator's next answers. -/
def allocating (l : List (Option Word)) (s : Machine.State) : Machine.State := { s with env := { s.env with allocs := l } }

/-- The next turns. -/
def turns (l : List Turn) (s : Machine.State) : Machine.State := { s with env := { s.env with sched := l } }

def holding (w : Work) (s : Machine.State) : Machine.State := { s with work := w }

/-- `exec i` answers a next state, and `p` holds of it. -/
def after (i : Instr) (s : Machine.State) (p : Machine.State → Bool) : Bool :=
  match exec i s with
  | .next t => p t
  | .fault _ => false
  | .refused _ => false

def refusedWith (i : Instr) (s : Machine.State) (r : Refusal) : Bool :=
  match exec i s with
  | .next _ => false
  | .fault _ => false
  | .refused x => x == r

def faultsWith (i : Instr) (s : Machine.State) (f : Fault) : Bool :=
  match exec i s with
  | .next _ => false
  | .fault x => x == f
  | .refused _ => false

/-- Decoding fails. -/
def undecodable (p : Place) (ds : List Digit) (e : DecodeError) : Bool :=
  match decodeAt p ds with
  | .ok _ => false
  | .error x => x == e

/-- CMD17 of P2: a one-block read. -/
def cmd17 : Cmd := Cmd.withData Codes.default 17 0x1000 RespTag.r1 true 0x80000000 1
/-- CMD25 of P3: an eight-block write. -/
def cmd25 : Cmd := Cmd.withData Codes.default 25 0x2000 RespTag.r1 false 0x80100000 8
/-- CMD2 of P4: no data, a 136-bit response. -/
def cmd2 : Cmd := Cmd.plain Codes.default 2 0 RespTag.r2
/-- CMD8 of P5. -/
def cmd8 : Cmd := Cmd.plain Codes.default 8 0x1AA RespTag.r7

/-! ### WellFormed refuses an ill-formed term for each of its checks (10_state.md R26, R227, R272, R127, R137) -/

theorem test_wf_index : (Instr.sendCommand (Cmd.plain Codes.default 64 0 RespTag.r1)).wf = false := by decide
theorem test_wf_no_blocks : (Instr.sendCommand (Cmd.withData Codes.default 17 0 RespTag.r1 true 0x1000 0)).wf = false := by decide
theorem test_wf_too_many_blocks :
    (Instr.sendCommand (Cmd.withData Codes.default 17 0 RespTag.r1 true 0x1000 65536)).wf = false := by decide
theorem test_wf_buffer_alignment :
    (Instr.sendCommand (Cmd.withData Codes.default 17 0 RespTag.r1 false 0x1002 1)).wf = false := by decide
theorem test_wf_table_length : (Instr.buildTable 0x1000 0).wf = false := by decide
theorem test_wf_table_wraps : (Instr.buildTable 0xFFFFFFFF 2).wf = false := by decide
theorem test_wf_reset_mask : (Instr.softReset 8).wf = false := by decide
theorem test_wf_multi_block_bits : (Instr.wordTransmode true false false true).wf = false := by decide
theorem test_wf_clear_both : (Instr.wordStsClear true true).wf = false := by decide
theorem test_wf_clear_none : (Instr.wordStsClear false false).wf = false := by decide

/-! ### Words written out by hand -/

/-- 30_encoding.md R156; the words of P1, P3, P4, P7, G2, G8, G9. -/
theorem test_decode_requests :
    decodeAt .port [0x0] = .ok .init ∧
    decodeAt .port [0x1, 0,0,1,9, 0,0,0,0,2,0,0,0, 0,0,0,1, 0x8, 0x8,0,1,0,0,0,0,0, 0,0,0,0,0,0,0,8] =
      .ok (.sendCommand cmd25) ∧
    decodeAt .port [0x1, 0,0,0,2, 0,0,0,0,0,0,0,0, 0,0,0,4, 0, 0,0,0,0,0,0,0,0, 0,0,0,0,0,0,0,0] =
      .ok (.sendCommand cmd2) ∧
    decodeAt .port [0x2, 0x0,0x5,0xF,0x5,0xE,0x1,0x0,0x0] = .ok (.clkSupply 100000000) ∧
    decodeAt .port [0x3, 0,0,0,1] = .ok (.setBusWidth 1) ∧
    decodeAt .port [0x4] = .ok .setSdrMode ∧
    decodeAt .port [0x5] = .ok .setDdrMode ∧
    decodeAt .port [0x6, 0x0,0x0] = .ok (.modeEnable 0) := by decide

/-- R121, R123. -/
theorem test_decode_sequences_and_reserved :
    decodeAt .sequence [0x8, 0,0,0,6,1,0xA,8,0] = .ok (.changeFrequency 400000) ∧
    decodeAt .sequence [0x9, 0x8,0,1,0,0,0,0,0, 0,0,0,1,0,0,0,1] = .ok (.buildTable 0x80100000 65537) ∧
    decodeAt .sequence [0xA, 0x0,0x1] = .ok (.softReset 1) ∧
    decodeAt .sequence [0xB, 0x8] = .ok (.respExtract 2) ∧
    decodeAt .sequence [0xC] = .ok .errDecode ∧
    decodeAt .sequence [0xD] = .ok .pwrIrq ∧
    decodeAt .port [0x7] = .ok .reserved7 ∧
    decodeAt .port [0xE] = .ok .reserved14 ∧
    decodeAt .port [0xF] = .ok .reserved15 := by decide

/-- R126 with vector W9 (0x0CC3), R127 (0x002B of S11), R128 with K10 (0xFFC1), R135, R136, R137, R140 with B5; least
significant digit first. -/
theorem test_decode_hardware_words :
    decodeAt .cmd [0x3,0xC,0xC,0x0] = .ok (.wordCmd 12 3 false 3) ∧
    decodeAt .transmode [0xB,0x2,0x0,0x0] = .ok (.wordTransmode true false true true) ∧
    decodeAt .clk [0x1,0xC,0xF,0xF] = .ok (.wordClk 0xFF 3) ∧
    decodeAt .swReset [0x1,0x0] = .ok (.wordSwReset false false true) ∧
    decodeAt .pwrAck [0x4,0,0,0,0,0,0,0] = .ok (.wordPwrAck true false) ∧
    decodeAt .stsClear [0x1,0,0,0] = .ok (.wordStsClear false true) ∧
    decodeAt .entry [1,2,0,0, 0,0,0,0, 0,0,0,0,1,0,0,8] = .ok (.adma2Entry 0x80010000 0 false) := by decide

/-- 30_encoding.md R150, R156: what is no word is refused by name. -/
theorem test_decode_refuses :
    undecodable .port [] .empty = true ∧
    undecodable .port [0x2, 0, 0, 0] .tooShort = true ∧
    undecodable .port [0x4, 0x1] .trailing = true ∧
    undecodable .sequence [0xB, 0x1] .padding = true ∧
    undecodable .cmd [0x4, 0x0, 0x1, 0x1] .notProduced = true ∧
    undecodable .cmd [0x2, 0x2, 0x1, 0x5] .notProduced = true ∧
    undecodable .transmode [0x1, 0x2, 0x0, 0x0] .notProduced = true ∧
    undecodable .clk [0x5, 0x0, 0x1, 0x0] .notProduced = true ∧
    undecodable .swReset [0x8, 0x0] .notProduced = true ∧
    undecodable .pwrAck [0x2, 0, 0, 0, 0, 0, 0, 0] .notProduced = true ∧
    undecodable .stsClear [0x3, 0, 0, 0] .notProduced = true ∧
    undecodable .entry [0x0, 2, 0, 0, 0, 0, 0, 0, 0, 0, 0, 0, 0, 0, 0, 0] .notProduced = true := by decide

/-- The opcode table's numbering: bit 0 is the lowest bit of the first digit. -/
theorem test_decode_table_words :
    decodeTableWord 8 0x4 = some .setSdrMode ∧
    decodeTableWord 16 0x106 = some (.modeEnable 0x01) ∧
    decodeTableWord 16 0x1122 = some (.wordCmd 17 0 true 2) ∧
    decodeTableWord 8 0x06 = some (.wordSwReset true true false) := by decide

/-! ### Single steps, with values from 95_test_vectors.md -/

/-- I1: the record of the two capability words. -/
theorem test_init_capabilities :
    after .init (reading [0x5] (holding { Work.blank with tmp := 0x0568C8B2 } (running .init .in2 1 fresh)))
      (fun t => t.st == .in3 &&
        t.h == ⟨some 200000000, some 0, some false, some true, some 7, some true, some true, none⟩) = true := by decide

/-- I4: the voltage selection alone, then with the bus power. -/
theorem test_init_voltage :
    after .init (running .init .in6 1 { idle with h := capRecord Bits.default 0x06046400 0 })
      (fun t => t.trace == [.caller (.regWrite .pwrCtrl 0x0D)] && t.st == .in7) = true := by decide

/-- W18: the largest index, with the ABORT type. -/
theorem test_send_command_word :
    after (.sendCommand { cmd25 with index := 63, cmdType := Codes.default.cmdType .abort })
      (holding { Work.blank with flags := 0xE2 }
        (running (.sendCommand { cmd25 with index := 63, cmdType := Codes.default.cmdType .abort }) .sc5 1 idle))
      (fun t => t.trace == [.caller (.regWrite .cmd 0x3FE2)] && t.inFlight == some 0x3FE2) = true := by decide

/-- X1: the fourth read of a 136-bit response writes the four shifted slots. -/
theorem test_send_command_response :
    after (.sendCommand cmd2)
      (reading [0xDDEEFF00]
        (holding { Work.blank with rt := 1, raw := ⟨0x11223344, 0x55667788, 0x99AABBCC, 0⟩ }
          (running (.sendCommand cmd2) .sc7 3 idle)))
      (fun t => t.slots == ⟨0x22334400, 0x66778811, 0xAABBCC55, 0xEEFF0099⟩ && t.st == .sc8) = true := by decide

/-- K11: floor division, and the high bits of the divider. -/
theorem test_clk_supply_search :
    after (.clkSupply 150000)
      (holding { Work.blank with freq := 150000, base := 200000000 } (running (.clkSupply 150000) .cs3 0 idle))
      (fun t => t.work.div == 1334 && t.work.achieved == 149925 && t.st == .cs4) = true := by decide +kernel

/-- K9: no divider reaches the target. -/
theorem test_clk_supply_unsupported :
    after (.clkSupply 97750)
      (holding { Work.blank with freq := 97750, base := 200000000 } (running (.clkSupply 97750) .cs3 0 idle))
      (fun t => t.trace == [.answer .clockUnsupported] && t.h == idle.h && t.ctl == idle.ctl) = true := by
  decide +kernel

/-- G6: bits are only ever added. -/
theorem test_set_bus_width :
    after (.setBusWidth 2) (holding { Work.blank with tmp := 0x12, code := 0x20 } (running (.setBusWidth 2) .bw2 1 idle))
      (fun t => t.trace == [.answer .success, .caller (.regWrite .hostCtrl1 0x32)]) = true := by decide

/-- G10: SDR after DDR leaves both mode bits. -/
theorem test_set_sdr_mode :
    after .setSdrMode (holding { Work.blank with tmp := 0x4 } (running .setSdrMode .sm2 1 idle))
      (fun t => t.trace == [.caller (.regWrite .hostCtrl2 0x6)] && t.st == .sm3) = true := by decide

/-- G9: the clock is stopped first. -/
theorem test_set_ddr_mode :
    after .setDdrMode (holding { Work.blank with tmp := 0x0207 } (running .setDdrMode .dm1 1 idle))
      (fun t => t.trace == [.caller (.regWrite .clkCtrl 0x0203)] && t.st == .dm2) = true := by decide

/-- R330: any flag but 0 writes 1. -/
theorem test_mode_enable :
    after (.modeEnable 0x80) (running (.modeEnable 0x80) .me1 0 fresh)
      (fun t => t.trace == [.answer .success, .caller (.pwrWrite .hcMode 1)] && t.st == .uninit) = true := by decide

/-- R123. -/
theorem test_reserved_codes :
    refusedWith .reserved7 idle (.reservedCode 7) = true ∧ refusedWith .reserved14 idle (.reservedCode 14) = true ∧
      refusedWith .reserved15 idle (.reservedCode 15) = true := by decide

/-- F3: a busy line, and nothing written. -/
theorem test_change_frequency_busy :
    after (.changeFrequency 25000000) (reading [1] (running (.changeFrequency 25000000) .cf1 0 idle))
      (fun t => t.trace == [.answer .busBusy, .caller (.regRead .presentState 1)]) = true := by decide

/-- B5: two entries for one byte more than a line. -/
theorem test_build_table_alloc :
    after (.buildTable 0x80000000 65537)
      (allocating [some 0x40000000]
        (holding { Work.blank with addr := 0x80000000, len := 65537 } (running (.buildTable 0x80000000 65537) .bt1 0 idle)))
      (fun t => t.trace == [.caller (.alloc 16 4 (some 0x40000000))] && t.work.count == 2 &&
        t.live == [(0x40000000, 16)] && t.mem.read 0x4000000F == some 0) = true := by decide +kernel

/-- B7: the length of the last of three entries, little-endian at its place. -/
theorem test_build_table_last_length :
    after (.buildTable 0x80000000 153600)
      (holding { Work.blank with table := some 0x40000000, addr := 0x80020000, len := 153600, count := 3, idx := 2, rem := 22528 }
        (running (.buildTable 0x80000000 153600) .bt2 1 idle))
      (fun t => t.trace == [.caller (.memWrite 0x40000012 2 0x5800)] && t.mem == [(0x40000012, 0x00), (0x40000013, 0x58)] &&
        t.dirty == [0x40000012, 0x40000013]) = true := by decide

/-- R8, R103 (c): with the length first, the other reading of 90_conflicts.md C4, the same entry has it at byte 0. -/
theorem test_build_table_layout :
    after (.buildTable 0x80000000 512)
      { holding { Work.blank with table := some 0x40000000, addr := 0x80000000, len := 512, count := 1, rem := 512 }
          (running (.buildTable 0x80000000 512) .bt2 1 idle) with
        cfg := { testCfg with entry := { EntryLayout.default with attrOff := 2, lenOff := 0 } } }
      (fun t => t.trace == [.caller (.memWrite 0x40000000 2 0x0200)]) = true := by decide

/-- R141: the two attributes. -/
theorem test_entry_attr :
    entryAttr EntryLayout.default false = 0x0021 ∧ entryAttr EntryLayout.default true = 0x0023 := by decide

/-- R132, R152: the type defaults to NORMAL, and the four have their codes. -/
theorem test_cmd_types :
    cmd2.cmdType = 0 ∧ (Cmd.plain Codes.default 12 0 RespTag.r1b .suspend).cmdType = 1 ∧
      Codes.default.cmdType .resume = 2 ∧ Codes.default.cmdType .abort = 3 := by decide

/-- R272: other bits of SW_RESET are ignored. -/
theorem test_soft_reset :
    after (.softReset 6) (reading [0xF9] (holding { Work.blank with mask := 6 } (running (.softReset 6) .sr2 0 idle)))
      (fun t => t.trace == [.caller (.regRead .swReset 0xF9)] && t.cur == none && t.st == .idle) = true := by decide

/-- X12: with no response the stale RESP0 is stored all the same. -/
theorem test_resp_extract :
    after (.respExtract 0) (reading [0xDEADBEEF] (running (.respExtract 0) .sc7 0 { idle with slots := ⟨1, 2, 3, 4⟩ }))
      (fun t => t.slots == ⟨0xDEADBEEF, 2, 3, 4⟩ && t.cur == none) = true := by decide

/-- ED14: auto-CMD12 outranks ADMA. -/
theorem test_err_decode :
    after .errDecode (reading [0x0300] (running .errDecode .sc9 1 idle))
      (fun t => t.trace == [.decoded (some .hwAutoCmd12), .caller (.regRead .errIntSts 0x0300)] && t.work == Work.blank) =
        true := by decide

/-- A5 and A8: both groups, and only bits above the low four. -/
theorem test_pwr_irq :
    after .pwrIrq (reading [0xF] idle)
      (fun t => t.trace == [.irq .eventSignal, .irq (.pwrWrite .ctl 5), .irq (.pwrRead .mask 0xF)] && t.ev) = true ∧
    after .pwrIrq (reading [0xFFFFFFF0] idle) (fun t => t.pwr.ctl == ⟨0, true⟩ && t.ev) = true := by decide

/-- W11. -/
theorem test_word_cmd :
    after (.wordCmd 17 0 true 2) idle (fun t => t.trace == [.caller (.regWrite .cmd 0x1122)]) = true := by decide

/-- S10 and S11. -/
theorem test_word_transmode :
    after (.wordTransmode false true false false) idle
      (fun t => t.trace == [.caller (.regWrite .transmode 0x0011)]) = true ∧
    after (.wordTransmode true true true true) idle
      (fun t => t.trace == [.caller (.regWrite .transmode 0x003B)]) = true := by decide

/-- K12: the low byte 0, bit 6 set. -/
theorem test_word_clk :
    after (.wordClk 0 1) idle (fun t => t.trace == [.caller (.regWrite .clkCtrl 0x0041)]) = true := by decide

/-- R266. -/
theorem test_word_sw_reset :
    after (.wordSwReset true true false) idle (fun t => t.trace == [.caller (.regWrite .swReset 0x06)]) = true := by decide

/-- A3: the write ends the pending interrupt (10_state.md R62). -/
theorem test_word_pwr_ack :
    after (.wordPwrAck true false) { idle with irq := ⟨true, false, 0, 0⟩ }
      (fun t => t.trace == [.irq (.pwrWrite .ctl 4)] && !t.irq.pending) = true := by decide

/-- R137, R47: only the bit written 1 is cleared. -/
theorem test_word_sts_clear :
    after (.wordStsClear true false) { idle with ctl := { idle.ctl with nrmlIntSts := 0x8003 } }
      (fun t => t.ctl.nrmlIntSts == 0x8001) = true := by decide

/-- The bytes of P2's table: 23 00 00 02 00 00 00 80, the address first. -/
theorem test_adma2_entry :
    (match execs 4 (.adma2Entry 0x80000000 0x0200 true) (holding { Work.blank with table := some 0x40000000 } idle) with
      | .next t => t.mem == [(0x40000000, 0x23), (0x40000001, 0x00), (0x40000002, 0x00), (0x40000003, 0x02),
          (0x40000004, 0x00), (0x40000005, 0x00), (0x40000006, 0x00), (0x40000007, 0x80)] &&
          t.trace == [.caller (.memWrite 0x40000000 2 0x0023), .caller (.memWrite 0x40000002 2 0x0200),
            .caller (.memWrite 0x40000004 4 0x80000000)]
      | .fault _ => false
      | .refused _ => false) = true := by decide

/-- 20_memory.md R96: a store the cache has not written back is not lost to a refill; a clean byte is. -/
theorem test_refill :
    (match applyMove (.refill 4) { idle with mem := [(4, 1)], dev := [(4, 2)], dirty := [4] } with
      | .next t => t.mem == [(4, 1)] | .fault _ => false | .refused _ => false) = true ∧
    (match applyMove (.refill 4) { idle with mem := [(4, 1)], dev := [(4, 2)] } with
      | .next t => t.mem == [(4, 2)] | .fault _ => false | .refused _ => false) = true := by decide

/-- 30_encoding.md R121, R123: only CHANGE_FREQUENCY of the sequences is taken from the caller, and no hardware word. -/
theorem test_offer :
    applyMove (.offer ⟨.sequence, encode (.buildTable 0 512)⟩) idle = .refused .notARequest ∧
    applyMove (.offer ⟨.clk, encode (.wordClk 2 0)⟩) idle = .refused .notARequest ∧
    applyMove (.offer ⟨.sequence, encode (.changeFrequency 400000)⟩) idle =
      .next { idle with offer := some ⟨.sequence, encode (.changeFrequency 400000)⟩ } := ⟨rfl, rfl, rfl⟩

/-- A legal configuration exists. -/
theorem test_cfg_legal : testCfg.Legal where
  regBase_aligned := by decide
  maxDiv_even := by decide
  maxDiv_low := by decide
  maxDiv_high := by decide
  maxLine_low := by decide
  maxLine_high := by decide
  blockSize_low := by decide
  blockSize_high := by decide
  idleRetry := by decide
  cmdRetry := by decide
  transRetry := by decide
  nrmlIntEn := by decide
  errIntEn := by decide
  switchIndex := by decide
  descAlign := ⟨2, by decide, by decide⟩
  spinBound := by intro b h; cases h
  tags := by decide
  cmdTypes := by decide
  lengths := by decide
  widths := by decide
  ops := by decide
  status := by decide
  entryFields := by decide
  entryBits := by decide

/-- The small states of these tests stand at the default bits, codes and entry layout. -/
theorem test_standard : Standard idle ∧ Standard fresh := by decide

/-! ### Witnesses: for each obligation with hypotheses, states and operands that meet them, clause by clause -/

/-- What an address, a length and an answer make of the table builder's state. -/
def building (addr len : Word) (l : List (Option Word)) : Machine.State :=
  allocating l (holding { Work.blank with addr := addr, len := len } (running (.buildTable addr len) .bt1 0 idle))

/-- An entry being written. -/
def writing (q idx count : Nat) (p : Phase) : Machine.State :=
  holding { Work.blank with table := some 0xFFFFFFF8, idx := idx, count := count }
    (running (.buildTable 0 1) p q idle)

theorem witness_DecodeEncodeAgree :
    (Instr.sendCommand (Cmd.withData Codes.default 63 0xFFFFFFFF RespTag.r1 true 0xFFFFFFFC 65535)).wf = true ∧
    (Instr.buildTable 0xFFFFFFFF 1).wf = true ∧ (Instr.softReset 7).wf = true ∧
    (Instr.wordTransmode true false true true).wf = true ∧ (Instr.wordStsClear false true).wf = true ∧
    (Instr.adma2Entry 0xFFFFFFFF 0xFFFF false).wf = true := by decide

theorem witness_EncodeDecodeAgree :
    decodeAt .port [0x4, 0x0, 0x0] = .ok .setSdrMode ∧ decodeAt .port [0xC] = .ok .errDecode ∧
    decodeAt .stsClear [0x1, 0, 0, 0, 0] = .ok (.wordStsClear false true) := by decide

theorem witness_EngineWordsAreTableWords :
    ({ cmd17 with index := 63 } : Cmd).index.toNat ≤ 63 ∧ (0 : Word).toNat % 2 = 0 ∧ (0 : Word).toNat ≤ 2046 ∧
    (2046 : Word).toNat % 2 = 0 ∧ (2046 : Word).toNat ≤ 2046 := by decide

theorem witness_StepRunsInstruction :
    ((turns [.caller] (running .init .in3 0 idle)).env.sched = [.caller] ∧
      (turns [.caller] (running .init .in3 0 idle)).cur = some .init) ∧
    ((turns [.caller] { idle with offer := some ⟨.port, [0x4]⟩ }).cur = none ∧ idle.st ≠ .aborted ∧
      decodeAt .port [0x4] = .ok .setSdrMode ∧ ¬(Place.port = .port ∧ isInternal .setSdrMode = true)) ∧
    (({ turns [.handler] idle with irq := ⟨true, false, 0, 0⟩ } : Machine.State).irq.pending = true ∧
      ({ turns [.handler] idle with irq := ⟨true, false, 0, 0⟩ } : Machine.State).irq.masked = false) ∧
    ((running .init .in3 0 idle).env.sched = [] ∧ (running .init .in3 0 idle).cur = some .init ∧
      (running .init .in3 0 idle).irq.pending = false) ∧
    (idle.cfg.codes = Codes.default ∧ idle.cur = none ∧ idle.offer = none ∧
      Place.clk ≠ .port ∧ decodeAt .sequence [0x8, 0,0,0,6,1,0xA,8,0] = .ok (.changeFrequency 400000)) ∧
    decodeAt .sequence [0xC] = .ok .errDecode := by decide

/-- The second clause with a `PWR_IRQ` on offer, whose line must be deliverable. -/
theorem witness_StepRunsInstruction_pwrIrq :
    decodeAt .sequence [0xD] = .ok .pwrIrq ∧ ¬(Place.sequence = .port ∧ isInternal .pwrIrq = true) ∧
    ({ idle with irq := ⟨true, false, 0, 0⟩ } : Machine.State).irq.pending = true ∧
    ({ idle with irq := ⟨true, false, 0, 0⟩ } : Machine.State).irq.masked = false := by decide

theorem witness_LoadedWordRunsNext :
    fresh.st ≠ .aborted ∧ decodeTableWord 8 0x4 = some .setSdrMode ∧ decodeTableWord 64 0x8000000002000023 =
      some (.adma2Entry 0x80000000 0x0200 true) := by decide

theorem witness_OutsideMovesFrame :
    (∃ t, step (turns [.outside (.cpuWrite 0xFFFFFFFF 0x5A)] idle) = .next t) ∧
    (∃ t, step (turns [.outside (.evict 0)] idle) = .next t) ∧
    (∃ t, step (turns [.outside (.refill 0)] { idle with dirty := [0] }) = .next t ∧ (0 : Word).toNat ∈ [0]) ∧
    (∃ t, step (turns [.outside .raiseLine] idle) = .next t) := ⟨⟨_, rfl⟩, ⟨_, rfl⟩, ⟨_, rfl, by decide⟩, ⟨_, rfl⟩⟩

theorem witness_IdleAcceptsOperations :
    Ready idle ∧ ({ cmd2 with index := 63 } : Cmd).index.toNat ≤ 63 ∧ cmd2.dataPresent = false ∧
    idle.h.baseClkRate = some 200000000 ∧ idle.h.curClkRate = some 400000 ∧ idle.cfg.configOps = true ∧
    ({ idle with cfg := { testCfg with configOps := false } } : Machine.State).cfg.configOps = false := by decide

theorem witness_UninitAcceptance :
    fresh.cur = none ∧ fresh.st = .uninit ∧ fresh.blockGone = false ∧ fresh.cfg.configOps = true ∧
    ({ fresh with cfg := { testCfg with configOps := false } } : Machine.State).cfg.configOps = false ∧
    (isExposed (.clkSupply 0) = true ∧ Instr.clkSupply 0 ≠ .init ∧ ∀ g, Instr.clkSupply 0 ≠ .modeEnable g) ∧
    (isExposed (.changeFrequency 0) = true ∧ Instr.changeFrequency 0 ≠ .init ∧ ∀ g, Instr.changeFrequency 0 ≠ .modeEnable g) :=
  ⟨rfl, rfl, rfl, rfl, rfl, ⟨rfl, by decide, fun g h => by cases h⟩, rfl, by decide, fun g h => by cases h⟩

theorem witness_SecondRequestRefused :
    ((running .init .in3 0 idle).cur = some .init ∧ Instr.setSdrMode ≠ .init ∧ isExposed .setSdrMode = true ∧
      Instr.changeFrequency 0 ≠ .init ∧ isExposed (.changeFrequency 0) = true) ∧
    ((turns [.outside (.offer ⟨.port, [0x4]⟩)] (running .init .in3 0 idle)).cur = some .init ∧
      (turns [.outside (.offer ⟨.port, [0x4]⟩)] (running .init .in3 0 idle)).st ≠ .aborted) := by decide

/-- The largest index, count and buffer end inside the domain. -/
theorem witness_OperandDomainOfSendCommand_inside :
    let c := Cmd.withData Codes.default 63 0 RespTag.r1 true (BitVec.ofNat 32 (2 ^ 32 - 65535 * 512)) 65535
    Ready idle ∧ c.index.toNat ≤ 63 ∧ c.dataPresent = true ∧ 1 ≤ c.blockCount.toNat ∧ c.blockCount.toNat ≤ 65535 ∧
    c.buf.toNat + c.blockCount.toNat * idle.cfg.blockSize.toNat ≤ 2 ^ 32 ∧ c.buf.toNat % 4 = 0 ∧
    c.buf.toNat % idle.cfg.cacheLine = 0 ∧ c.blockCount.toNat * idle.cfg.blockSize.toNat % idle.cfg.cacheLine = 0 := by decide

/-- One request outside each limit. -/
theorem witness_OperandDomainOfSendCommand_outside :
    ¬ (Cmd.plain Codes.default 64 0 RespTag.r1).index.toNat ≤ 63 ∧
    ¬ 1 ≤ (Cmd.withData Codes.default 17 0 RespTag.r1 true 0 0).blockCount.toNat ∧
    ¬ (Cmd.withData Codes.default 17 0 RespTag.r1 true 0 65536).blockCount.toNat ≤ 65535 ∧
    ¬ (Cmd.withData Codes.default 17 0 RespTag.r1 false 0xFFFFFE04 1).buf.toNat + 1 * idle.cfg.blockSize.toNat ≤ 2 ^ 32 ∧
    ¬ (Cmd.withData Codes.default 17 0 RespTag.r1 false 0x1002 1).buf.toNat % 4 = 0 ∧
    ¬ (Cmd.withData Codes.default 17 0 RespTag.r1 true 0x1004 1).buf.toNat % idle.cfg.cacheLine = 0 := by decide

theorem witness_OperandDomainOfBuildTable :
    Ready idle ∧ (0 : Word) = 0 ∧ (2 : Word) ≠ 0 ∧ 2 ^ 32 < (0xFFFFFFFF : Word).toNat + (2 : Word).toNat ∧
    (0xFFFFFFFF : Word).toNat + (1 : Word).toNat ≤ 2 ^ 32 := by decide

theorem witness_UnwrittenFieldFaults :
    Ready bare ∧ bare.h.baseClkRate = none ∧ bare.h.curClkRate = none ∧ bare.cfg.configOps = true := by decide

theorem witness_ReservedAndInternalCodesRefused :
    7 ≤ (0x7 : Digit).toNat ∧ 7 ≤ (0xF : Digit).toNat ∧
    (turns [.caller] { idle with offer := some ⟨.port, 0x9 :: []⟩ }).env.sched = [.caller] ∧ idle.cur = none ∧
    idle.st ≠ .aborted := by decide

theorem witness_ReturnFromOperation :
    (running (.clkSupply 0) .cs6 0 idle).ret = none ∧
    ({ running .setSdrMode .cs6 0 idle with ret := some (.sm3, 1) } : Machine.State).ret = some (.sm3, 1) := by decide

/-- One Hz above the base rate, and the base rate itself; CLK_SUPPLY alone and nested. -/
theorem witness_ClkRangeCheck :
    runsClock (.clkSupply 200000001) = true ∧ runsClock .setDdrMode = true ∧
    (running .setDdrMode .cs1 0 idle).cur = some .setDdrMode ∧ (running .setDdrMode .cs1 0 idle).st = .cs1 ∧
    idle.h.baseClkRate = some 200000000 ∧ (200000000 : Word).toNat < (200000001 : Word).toNat ∧
    (200000000 : Word).toNat ≤ (200000000 : Word).toNat := by decide

/-- The smallest divider there is, and the largest. -/
theorem witness_ClkDividerChoice_selects : SelectsDivider 100 99 2046 2 ∧ SelectsDivider 2045 0 2046 2046 :=
  ⟨⟨by decide, by decide, by decide, by decide, fun e _ h1 h2 => by omega⟩,
    ⟨by decide, by decide, by decide, by decide, fun e h0 h1 h2 => Nat.div_pos (by omega) (by omega)⟩⟩

/-- No divider reaches the target. -/
theorem witness_ClkDividerChoice_none : ∀ d, ¬ SelectsDivider 2046 0 2046 d := by
  intro d h
  have : 0 < 2046 / d := Nat.div_pos h.2.2.1 (by have := h.2.1; omega)
  have := h.2.2.2.1
  omega

theorem witness_ClkDividerChoice :
    (running (.clkSupply 5) .cs2 0 (holding { Work.blank with freq := 5, base := 5 } idle)).work.freq =
      (running (.clkSupply 5) .cs2 0 (holding { Work.blank with freq := 5, base := 5 } idle)).work.base ∧
    (holding { Work.blank with freq := 4, base := 5 } idle).work.freq ≠
      (holding { Work.blank with freq := 4, base := 5 } idle).work.base ∧
    runsClock (.clkSupply 5) = true ∧ idle.cfg.maxDiv.toNat = 2046 := by decide

theorem witness_DividerSearchProperties : findDiv 2045 0 2046 = some 2046 ∧ findDiv 100 99 2046 = some 2 := by
  decide +kernel

theorem witness_ClkWordWrite :
    Standard idle ∧ runsClock (.changeFrequency 0) = true ∧ (running (.changeFrequency 0) .cs4 0 idle).cur = some (.changeFrequency 0) ∧
    (running (.changeFrequency 0) .cs4 0 idle).st = .cs4 := by decide

theorem witness_ClkStableSpin :
    (MaySpin (reading [0x0203] (running (.clkSupply 0) .cs5 0 idle)) ∧
      readValue .clkCtrl (reading [0x0203] (running (.clkSupply 0) .cs5 0 idle)) &&& idle.cfg.bits.clkStable.setWidth 32 ≠ 0) ∧
    readValue .clkCtrl (reading [0x0201] (running (.clkSupply 0) .cs5 0 idle)) &&&
      idle.cfg.bits.clkStable.setWidth 32 = 0 ∧
    (∃ b, ({ testCfg with spinBound := some 4 } : Cfg).spinBound = some b ∧
      b ≤ (holding { Work.blank with spin := 4 } idle).work.spin) :=
  ⟨⟨(fun b h => by cases h), by decide⟩, by decide, 4, rfl, by decide⟩

theorem witness_ClkEnableAndRecord :
    runsClock .setSdrMode = true ∧ At .setSdrMode .cs5 1 (running .setSdrMode .cs5 1 idle) ∧
    At .setSdrMode .cs6 0 (running .setSdrMode .cs6 0 idle) := by decide

/-- The divider 2, the clock stable at the second read. -/
theorem witness_ClkSupplyRun :
    Standard idle ∧ Ready idle ∧ idle.h.baseClkRate = some 200000000 ∧ idle.cfg.spinBound = none ∧
    (100000000 : Word).toNat < (200000000 : Word).toNat ∧
    SelectsDivider (200000000 : Word).toNat (100000000 : Word).toNat idle.cfg.maxDiv.toNat 2 ∧
    (reading [0x0101, 0x0103] idle).env.reads = [0x0101] ++ 0x0103 :: [] ∧ (∀ x ∈ [(0x0101 : Word)], x &&& 0x0002 = 0) ∧
    (0x0103 : Word) &&& 0x0002 ≠ 0 :=
  ⟨by decide, by decide, rfl, rfl, by decide, ⟨by decide, by decide, by decide, by decide, fun e _ h1 h2 => by omega⟩, rfl,
    by simp, by decide⟩

/-- The pass-through: the target is the base rate, and the divider 0. -/
theorem witness_ClkSupplyRun_passThrough :
    idle.h.baseClkRate = some 200000000 ∧ ((200000000 : Word) = 200000000 ∧ 0 = 0) ∧
    (reading [0x0002] idle).env.reads = [] ++ 0x0002 :: [] := by decide

theorem witness_ChangeFrequencySteps :
    (At (.changeFrequency 1) .cf1 0 (reading [2] (running (.changeFrequency 1) .cf1 0 idle)) ∧
      readValue .presentState (reading [2] (running (.changeFrequency 1) .cf1 0 idle)) &&& idle.cfg.bits.stateCmdDat ≠ 0) ∧
    readValue .presentState (reading [0xFFFFFFFC] (running (.changeFrequency 1) .cf1 0 idle)) &&& idle.cfg.bits.stateCmdDat = 0 ∧
    At (.changeFrequency 1) .cf2 0 (running (.changeFrequency 1) .cf2 0 idle) ∧
    At (.changeFrequency 1) .cf2 1 (running (.changeFrequency 1) .cf2 1 idle) ∧
    At (.changeFrequency 1) .cf3 0 (running (.changeFrequency 1) .cf3 0 idle) ∧
    (At (.changeFrequency 1) .cf3 1
        (holding { Work.blank with inner := some .success } (running (.changeFrequency 1) .cf3 1 idle)) ∧
      (holding { Work.blank with inner := some .success } idle).work.inner = some .success) := by decide

/-- A table that ends at 2^32, right behind the buffer; and the answer `fail`. -/
theorem witness_TableAllocation :
    let s := building 0xFFFFFDF8 512 [some 0xFFFFFFF8]
    (runsTable (.buildTable 0xFFFFFDF8 512) = true ∧ s.cur = some (.buildTable 0xFFFFFDF8 512) ∧ s.st = .bt1 ∧
      Answers s (some 0xFFFFFFF8) ∧ (0xFFFFFFF8 : Word).toNat % s.cfg.descAlign = 0 ∧
      (0xFFFFFFF8 : Word).toNat + 8 * ruleCount s.cfg.maxLine.toNat s.work.len.toNat ≤ 2 ^ 32 ∧
      s.work.addr.toNat + s.work.len.toNat ≤ (0xFFFFFFF8 : Word).toNat ∧
      (∀ b ∈ s.live, (0xFFFFFFF8 : Word).toNat + 8 * ruleCount s.cfg.maxLine.toNat s.work.len.toNat ≤ b.1.toNat ∨
        b.1.toNat + b.2 ≤ (0xFFFFFFF8 : Word).toNat)) ∧
    Answers (building 0 1 [none]) none :=
  ⟨⟨rfl, rfl, rfl, rfl, by decide, by decide, by decide, by intro b h; cases h⟩, rfl⟩

theorem witness_TableEntrySteps :
    (idle.cfg.entry = EntryLayout.default ∧ runsTable (.buildTable 0 1) = true ∧ (writing 0 0 1 .bt2).cur = some (.buildTable 0 1) ∧
      (writing 0 0 1 .bt2).work.table = some 0xFFFFFFF8 ∧ (writing 0 0 1 .bt2).st = .bt2 ∧ (writing 0 0 1 .bt2).pos = 0) ∧
    ((writing 1 0 1 .bt2).pos = 1 ∧ (0 : Word).toNat =
      (if (writing 1 0 1 .bt2).work.idx + 1 < (writing 1 0 1 .bt2).work.count then idle.cfg.maxLine
        else (writing 1 0 1 .bt2).work.rem).toNat % 2 ^ 16) ∧
    ((writing 2 0 2 .bt2).pos = 2 ∧ (writing 2 0 2 .bt2).work.idx + 1 < (writing 2 0 2 .bt2).work.count) ∧
    (writing 2 1 2 .bt2).work.idx + 1 = (writing 2 1 2 .bt2).work.count ∧ (writing 0 0 1 .bt3).st = .bt3 := by decide

/-- B5: two entries. -/
theorem witness_BuildTableRun :
    idle.cfg.entry = EntryLayout.default ∧ Ready idle ∧ 0 < (65537 : Word).toNat ∧ (0x80000000 : Word).toNat + (65537 : Word).toNat ≤ 2 ^ 32 ∧
    65536 = idle.cfg.maxLine.toNat ∧ 2 = ruleCount 65536 (65537 : Word).toNat ∧
    (allocating [some 0x40000000] idle).env.allocs = some 0x40000000 :: [] ∧
    (0x40000000 : Word).toNat % idle.cfg.descAlign = 0 ∧ (0x40000000 : Word).toNat + 8 * 2 ≤ 2 ^ 32 ∧
    (0x40000000 : Word).toNat + 8 * 2 ≤ (0x80000000 : Word).toNat ∧
    (∀ b ∈ idle.live, (0x40000000 : Word).toNat + 8 * 2 ≤ b.1.toNat ∨ b.1.toNat + b.2 ≤ (0x40000000 : Word).toNat) :=
  ⟨rfl, by decide, by decide, by decide, by decide, by decide, rfl, by decide, by decide, by decide, by intro b h; cases h⟩

theorem witness_EntryLengthsTile :
    1 ≤ (65536 : Word).toNat ∧ 1 ≤ (131072 : Word).toNat ∧ 2 = entryCount (65536 : Word).toNat (131072 : Word).toNat ∧
    (∃ L : Nat → Nat, ∀ i, L i = (entryLen 65536 2 i (131072 - BitVec.ofNat 32 (i * (65536 : Word).toNat))).toNat) ∧
    0 < 2 ∧ 1 < 2 ∧ (131072 : Word).toNat = 2 * (65536 : Word).toNat ∧ 1 = entryCount (1 : Word).toNat (1 : Word).toNat :=
  ⟨by decide, by decide, by decide, ⟨_, fun _ => rfl⟩, by decide, by decide, by decide, by decide⟩

theorem witness_SoftResetSteps :
    (runsReset .init = true ∧ At .init .sr1 0 (running .init .sr1 0 idle)) ∧
    (runsReset (.softReset 6) = true ∧ MaySpin (reading [0xF9] (running (.softReset 6) .sr2 0 idle)) ∧
      readValue .swReset (reading [0xF9] (holding { Work.blank with mask := 6 } (running (.softReset 6) .sr2 0 idle))) &&&
        (6 : Byte).setWidth 32 = 0) ∧
    readValue .swReset (reading [0x04] (holding { Work.blank with mask := 6 } (running (.softReset 6) .sr2 0 idle))) &&&
      (6 : Byte).setWidth 32 ≠ 0 ∧
    (∃ b, ({ testCfg with spinBound := some 1 } : Cfg).spinBound = some b ∧
      b ≤ (holding { Work.blank with spin := 1 } idle).work.spin) :=
  ⟨⟨rfl, by decide⟩, ⟨rfl, (fun b h => by cases h), by decide⟩, by decide, 1, rfl, by decide⟩

theorem witness_SendIdleCheck :
    (At (.sendCommand cmd8) .sc1 0 (reading [0xFFFFFFFC] (running (.sendCommand cmd8) .sc1 0 idle)) ∧
      readValue .presentState (reading [0xFFFFFFFC] (running (.sendCommand cmd8) .sc1 0 idle)) &&& idle.cfg.bits.stateCmdDat = 0) ∧
    readValue .presentState (reading [0x2] (running (.sendCommand cmd8) .sc1 0 idle)) &&& idle.cfg.bits.stateCmdDat ≠ 0 ∧
    (At (.sendCommand cmd8) .sc1 1 (holding { Work.blank with n := 1 } (running (.sendCommand cmd8) .sc1 1 idle)) ∧
      (holding { Work.blank with n := 1 } idle).work.n + 1 ≠ idle.cfg.idleRetryMax) ∧
    (idle.ret = none ∧ (holding { Work.blank with n := 2 } idle).work.n + 1 = idle.cfg.idleRetryMax) := by decide

theorem witness_SendMapAndTimeout :
    Standard idle ∧ (At (.sendCommand cmd2) .sc2 0 (running (.sendCommand cmd2) .sc2 0 idle) ∧ cmd2.respType = 0x0004) ∧
    cmd8.respType = 0x0080 ∧ (Cmd.plain Codes.default 0 0 RespTag.none).respType = 0x0000 ∧
    (Cmd.plain Codes.default 6 0 RespTag.r1b).respType = 0x0002 ∧ idle.ret = none ∧
    At (.sendCommand cmd2) .sc3 0 (running (.sendCommand cmd2) .sc3 0 idle) := by decide

/-- The unrecognised tag of P5. -/
theorem witness_SendMapAndTimeout_invalid :
    ∀ t ∈ ([0x0000, 0x0001, 0x0002, 0x0004, 0x0008, 0x0040, 0x0080] : List Half), (Cmd.plain Codes.default 8 0 0x0003).respType ≠ t := by
  simp [Cmd.plain]

theorem witness_SendSetupAndIssue :
    Standard idle ∧ (At (.sendCommand cmd2) .sc4 0 (running (.sendCommand cmd2) .sc4 0 idle) ∧ cmd2.dataPresent = false) ∧
    (At (.sendCommand cmd17) .sc4 0 (running (.sendCommand cmd17) .sc4 0 idle) ∧ cmd17.dataPresent = true) ∧
    At (.sendCommand cmd17) .sc4 1 (running (.sendCommand cmd17) .sc4 1 idle) ∧
    At (.sendCommand cmd25) .sc4 2 (running (.sendCommand cmd25) .sc4 2 idle) ∧
    At (.sendCommand cmd25) .sc4 3 (running (.sendCommand cmd25) .sc4 3 idle) ∧
    (At (.sendCommand cmd25) .sc4 4
        (holding { Work.blank with table := some 0xFFFFFFF8 } (running (.sendCommand cmd25) .sc4 4 idle)) ∧
      (holding { Work.blank with table := some 0xFFFFFFF8 } idle).work.table = some 0xFFFFFFF8) ∧
    At (.sendCommand cmd25) .sc4 5 (running (.sendCommand cmd25) .sc4 5 idle) ∧
    At (.sendCommand cmd25) .sc5 0 (running (.sendCommand cmd25) .sc5 0 idle) ∧
    At (.sendCommand cmd25) .sc5 1 (running (.sendCommand cmd25) .sc5 1 idle) := by decide

theorem witness_SendCmdPoll :
    Standard idle ∧ (At (.sendCommand cmd8) .sc6 0 (reading [0x0003] (running (.sendCommand cmd8) .sc6 0 idle)) ∧
      readValue .nrmlIntSts (reading [0x0003] (running (.sendCommand cmd8) .sc6 0 idle)) &&& 0x0001 ≠ 0) ∧
    readValue .nrmlIntSts (reading [0x8002] (running (.sendCommand cmd8) .sc6 0 idle)) &&& 0x0001 = 0 ∧
    (At (.sendCommand cmd8) .sc6 1 (running (.sendCommand cmd8) .sc6 1 idle) ∧
      (holding { Work.blank with n := 1 } idle).work.n + 1 ≠ idle.cfg.cmdRetryMax) ∧
    (holding { Work.blank with n := 2 } idle).work.n + 1 = idle.cfg.cmdRetryMax ∧
    At (.sendCommand cmd8) .sc6 2 (running (.sendCommand cmd8) .sc6 2 idle) := by decide

theorem witness_RespExtractSteps :
    (At (.respExtract 2) .sc7 0 (holding { Work.blank with rt := 2 } (running (.respExtract 2) .sc7 0 idle)) ∧
      (2 : BitVec 2) ≠ 1) ∧
    (At (.respExtract 1) .sc7 0 (holding { Work.blank with rt := 1 } (running (.respExtract 1) .sc7 0 idle)) ∧
      (holding { Work.blank with rt := 1 } idle).work.rt = 1) ∧
    At (.sendCommand cmd2) .sc7 1 (running (.sendCommand cmd2) .sc7 1 idle) ∧
    At (.sendCommand cmd2) .sc7 2 (running (.sendCommand cmd2) .sc7 2 idle) ∧
    At (.sendCommand cmd2) .sc7 3 (running (.sendCommand cmd2) .sc7 3 idle) := by decide

/-- Data, the switch command alone, and neither; both ends of the poll. -/
theorem witness_SendTransPoll :
    Standard idle ∧ (At (.sendCommand cmd17) .sc8 0 (running (.sendCommand cmd17) .sc8 0 idle) ∧ cmd17.dataPresent = true) ∧
    (Cmd.plain Codes.default 6 0 RespTag.r1b).index.toNat = idle.cfg.switchCmdIndex ∧
    (cmd2.dataPresent = false ∧ cmd2.index.toNat ≠ idle.cfg.switchCmdIndex) ∧
    (At (.sendCommand cmd17) .sc8 1 (reading [0x0002] (running (.sendCommand cmd17) .sc8 1 idle)) ∧
      readValue .nrmlIntSts (reading [0x0002] (running (.sendCommand cmd17) .sc8 1 idle)) &&& 0x0002 ≠ 0) ∧
    readValue .nrmlIntSts (reading [0x8001] (running (.sendCommand cmd17) .sc8 1 idle)) &&& 0x0002 = 0 ∧
    (At (.sendCommand cmd17) .sc8 2 (running (.sendCommand cmd17) .sc8 2 idle) ∧
      (holding { Work.blank with n := 1 } idle).work.n + 1 ≠ idle.cfg.transRetryMax) ∧
    (holding { Work.blank with n := 2 } idle).work.n + 1 = idle.cfg.transRetryMax ∧
    At (.sendCommand cmd17) .sc8 3 (running (.sendCommand cmd17) .sc8 3 idle) := by decide

theorem witness_ErrDecodeSteps :
    (At .errDecode .sc9 0 (reading [0x7FFF] (running .errDecode .sc9 0 idle)) ∧
      readValue .nrmlIntSts (reading [0x7FFF] (running .errDecode .sc9 0 idle)) &&&
        idle.cfg.bits.errInt.setWidth 32 = 0) ∧
    readValue .nrmlIntSts (reading [0x8000] (running .errDecode .sc9 0 idle)) &&&
        idle.cfg.bits.errInt.setWidth 32 ≠ 0 ∧
    At (.sendCommand cmd8) .sc9 1 (running (.sendCommand cmd8) .sc9 1 idle) := by decide

/-- The lowest and the highest decoded bit, and none of them. -/
theorem witness_ErrPriorityIsLowestBit :
    (0 < 10 ∧ (0xFFFF : Word).getLsbD 0 = true) ∧
    (9 < 10 ∧ (0xFE00 : Word).getLsbD 9 = true ∧ ∀ j, j < 9 → (0xFE00 : Word).getLsbD j = false) ∧
    (∀ j, j < 10 → (0xFC00 : Word).getLsbD j = false) := by decide

theorem witness_SendCleanupAndEnd :
    (Work.blank.hw = none ∧ Work.blank.cmdTo = false ∧ Work.blank.transTo = false ∧ Status.success = .success) ∧
    ({ Work.blank with hw := some .hwAdma, cmdTo := true } : Work).hw = some .hwAdma ∧
    (At (.sendCommand cmd17) .sc10 0 (running (.sendCommand cmd17) .sc10 0 idle) ∧ cmd17.dataPresent = true) ∧
    (At (.sendCommand cmd2) .sc10 0 (running (.sendCommand cmd2) .sc10 0 idle) ∧ cmd2.dataPresent = false) ∧
    (At (.sendCommand cmd17) .sc11 0 (running (.sendCommand cmd17) .sc11 0 idle) ∧ isRead idle.cfg.codes cmd17 = true) ∧
    (At (.sendCommand cmd17) .sc11 1
        (holding { Work.blank with table := some 0 } (running (.sendCommand cmd17) .sc11 1 idle)) ∧ idle.ret = none ∧
      (holding { Work.blank with table := some 0 } idle).work.table = some 0) ∧
    (At (.sendCommand cmd25) .sc11 0 (running (.sendCommand cmd25) .sc11 0 idle) ∧ isRead idle.cfg.codes cmd25 = false) ∧
    At (.sendCommand cmd2) .sc11 0 (running (.sendCommand cmd2) .sc11 0 idle) := by decide

/-- A 136-bit response (P4), a 48-bit one, and the switch command (P7) with its transfer poll. -/
theorem witness_SendCommandRun :
    Standard idle ∧ Ready idle ∧
    (cmd2.index.toNat ≤ 63 ∧ false = decide (cmd2.index.toNat = idle.cfg.switchCmdIndex) ∧ cmd2.dataPresent = false ∧
      mapResp Bits.default Codes.default cmd2.respType = some 1 ∧
      (reading [0, 1, 0x11223344, 0x55667788, 0x99AABBCC, 0xDDEEFF00, 0] idle).env.reads =
        0 :: 1 :: (respReads 1 ⟨0x11223344, 0x55667788, 0x99AABBCC, 0xDDEEFF00⟩ ++ ([] ++ 0 :: []))) ∧
    (true = decide ((Cmd.plain Codes.default 6 0 RespTag.r1b).index.toNat = idle.cfg.switchCmdIndex) ∧
      mapResp Bits.default Codes.default (Cmd.plain Codes.default 6 0 RespTag.r1b).respType = some 3 ∧
      (reading [0, 1, 0x900, 2, 0] idle).env.reads = 0 :: 1 :: (respReads 3 ⟨0x900, 0, 0, 0⟩ ++ ([2] ++ 0 :: [])) ∧
      (2 : Word) &&& 0x0002 ≠ 0) ∧
    (0 : Word) &&& 0x3 = 0 ∧ (1 : Word) &&& 0x0001 ≠ 0 ∧ (0 : Word) &&& 0x8000 = 0 := by decide

/-- P2, a one-block read, and P3, an eight-block write. -/
theorem witness_SendDataRun :
    Standard idle ∧ Ready idle ∧ idle.cfg.spinBound = none ∧ 1 ≤ idle.cfg.blockSize.toNat ∧ idle.cfg.blockSize.toNat ≤ 4095 ∧
    65536 = idle.cfg.maxLine.toNat ∧
    (cmd17.index.toNat ≤ 63 ∧ cmd17.dataPresent = true ∧ 1 ≤ cmd17.blockCount.toNat ∧ cmd17.blockCount.toNat ≤ 65535 ∧
      512 = cmd17.blockCount.toNat * idle.cfg.blockSize.toNat ∧ cmd17.buf.toNat + 512 ≤ 2 ^ 32 ∧ cmd17.buf.toNat % 4 = 0 ∧
      cmd17.dir = true ∧ cmd17.buf.toNat % idle.cfg.cacheLine = 0 ∧ 512 % idle.cfg.cacheLine = 0 ∧
      mapResp Bits.default Codes.default cmd17.respType = some 2 ∧ 1 = ruleCount 65536 512 ∧
      false = decide (1 < cmd17.blockCount.toNat)) ∧
    (cmd25.dir = false ∧ 4096 = cmd25.blockCount.toNat * idle.cfg.blockSize.toNat ∧ 1 = ruleCount 65536 4096 ∧
      true = decide (1 < cmd25.blockCount.toNat) ∧ mapResp Bits.default Codes.default cmd25.respType = some 2) ∧
    (allocating [some 0x40000000] idle).env.allocs = some 0x40000000 :: [] ∧
    (0x40000000 : Word).toNat % idle.cfg.descAlign = 0 ∧ (0x40000000 : Word).toNat + 8 * 1 ≤ cmd17.buf.toNat ∧
    idle.live = [] ∧
    (reading [0, 1, 0x900, 2, 0, 0] idle).env.reads = 0 :: 1 :: (respReads 2 ⟨0x900, 0, 0, 0⟩ ++ 2 :: 0 :: 0 :: []) ∧
    (0 : Word) &&& 0x06 = 0 ∧ (2 : Word) &&& 0x0002 ≠ 0 := by decide

theorem witness_InitSteps :
    At .init .in1 0 (running .init .in1 0 fresh) ∧ At .init .in2 0 (running .init .in2 0 fresh) ∧
    At .init .in2 1 (running .init .in2 1 fresh) ∧ At .init .in3 0 (running .init .in3 0 fresh) ∧
    At .init .in4 0 (running .init .in4 0 fresh) ∧ At .init .in5 0 (running .init .in5 0 fresh) ∧
    (At .init .in6 0 (running .init .in6 0 idle) ∧ idle.h.voltage = some 7) ∧
    At .init .in6 1 (running .init .in6 1 idle) ∧ At .init .in8 0 (running .init .in8 0 idle) ∧
    At .init .in9 0 (running .init .in9 0 idle) ∧ At .init .in10 0 (running .init .in10 0 idle) ∧
    At .init .in10 1 (running .init .in10 1 idle) ∧ At .init .in10 2 (running .init .in10 2 idle) ∧
    At .init .in10 3 (running .init .in10 3 idle) ∧ At .init .in11 0 (running .init .in11 0 idle) ∧
    idle.ret = none := by decide

/-- P1. -/
theorem witness_InitRun :
    Standard fresh ∧ fresh.cur = none ∧ fresh.st = .uninit ∧ fresh.blockGone = false ∧ fresh.cfg.spinBound = none ∧
    (reading [1, 0, 0x0568C8B2, 5, 1, 0] fresh).env.reads = [1] ++ 0 :: 0x0568C8B2 :: 5 :: 1 :: 0 :: [] ∧
    (∀ x ∈ [(1 : Word)], x &&& 0x01 ≠ 0) ∧ (0 : Word) &&& 0x01 = 0 :=
  ⟨by decide, rfl, rfl, rfl, rfl, rfl, by simp, by decide⟩

theorem witness_SetBusWidthSteps :
    Standard idle ∧ (runsWidth .init = true ∧ (running .init .bw1 0 idle).st = .bw1 ∧ (running .init .bw1 0 idle).work.width = 0) ∧
    (holding { Work.blank with width := 1 } idle).work.width = 1 ∧
    (holding { Work.blank with width := 2 } idle).work.width = 2 ∧
    ((3 : Half) ≠ 0 ∧ (3 : Half) ≠ 1 ∧ (3 : Half) ≠ 2) ∧
    At (.setBusWidth 2) .bw2 0 (running (.setBusWidth 2) .bw2 0 idle) ∧
    At (.setBusWidth 2) .bw2 1 (running (.setBusWidth 2) .bw2 1 idle) := by decide

theorem witness_ModeChangeSteps :
    At .setSdrMode .sm1 0 (running .setSdrMode .sm1 0 idle) ∧ At .setSdrMode .sm1 1 (running .setSdrMode .sm1 1 idle) ∧
    At .setSdrMode .sm2 0 (running .setSdrMode .sm2 0 idle) ∧ At .setSdrMode .sm2 1 (running .setSdrMode .sm2 1 idle) ∧
    (At .setSdrMode .sm3 0 (running .setSdrMode .sm3 0 idle) ∧ idle.h.curClkRate = some 400000) ∧
    At .setSdrMode .sm3 1 (running .setSdrMode .sm3 1 idle) ∧ idle.ret = none ∧
    At .setDdrMode .dm1 0 (running .setDdrMode .dm1 0 idle) ∧ At .setDdrMode .dm3 1 (running .setDdrMode .dm3 1 idle) := by
  decide

theorem witness_ModeEnableSteps :
    (At (.modeEnable 0) .me1 0 (running (.modeEnable 0) .me1 0 idle) ∧ idle.ret = none) ∧
    (({ idle with blockGone := true } : Machine.State).cur = none ∧
      ({ idle with blockGone := true } : Machine.State).st ≠ .aborted ∧
      ({ idle with blockGone := true } : Machine.State).blockGone = true ∧ isExposed .init = true ∧
      isExposed (.changeFrequency 0) = true) := by decide

/-- The four rows of the acknowledgment's table. -/
theorem witness_PwrIrqHandler :
    Standard idle ∧ ((0xFFFFFFF0 : Word) = drawValue pwrMaskNumber (reading [0xFFFFFFF0] idle) ∧ (0xFFFFFFF0 : Word) &&& 0x3 = 0 ∧
      (0xFFFFFFF0 : Word) &&& 0xC = 0) ∧
    ((2 : Word) &&& 0x3 ≠ 0 ∧ (2 : Word) &&& 0xC = 0) ∧ ((8 : Word) &&& 0x3 = 0 ∧ (8 : Word) &&& 0xC ≠ 0) ∧
    ((5 : Word) &&& 0x3 ≠ 0 ∧ (5 : Word) &&& 0xC ≠ 0) := by decide

theorem witness_EventWaitAndRace :
    At .init .in7 0 (running .init .in7 0 idle) ∧ (running .init .in7 0 idle).ev = false ∧
    ({ running .init .in7 0 idle with ev := true } : Machine.State).ev = true ∧
    (running .init .in7 0 idle).env.sched = [] ∧ (running .init .in7 0 idle).irq.pending = false ∧
    ({ idle with irq := ⟨true, false, 0, 0⟩ } : Machine.State).irq.pending = true ∧
    ({ idle with irq := ⟨true, false, 0, 0⟩ } : Machine.State).irq.masked = false := by decide

theorem witness_HardwareWordEvents :
    Standard idle ∧ idle.st ≠ .aborted ∧ ¬(true = false ∧ false = false) ∧ ¬(true = true ∧ true = false) := by decide

/-- The last entry below 2^32, and no table. -/
theorem witness_EntryWordEvent :
    idle.cfg.entry = EntryLayout.default ∧ Ready (holding { Work.blank with table := some 0xFFFFFFF0, idx := 1 } idle) ∧ (0x0023 : Half) = (if true then 0x0023 else 0x0021) ∧
    (holding { Work.blank with table := some 0xFFFFFFF0, idx := 1 } idle).work.table = some 0xFFFFFFF0 ∧
    Ready idle ∧ idle.work.table = none := by decide

theorem witness_RegisterReadModel :
    (Reg.storage .hostCtrl1 = true ∧ Reg.hostCtrl1 ≠ .clkCtrl) ∧
    (Reg.arg ≠ .hostCtrl1 ∧ Reg.arg ≠ .swReset ∧ (regWrite .hostCtrl1 0x10 idle).ctl.known .hostCtrl1 = true) ∧
    (0x01 : Word) &&& idle.cfg.bits.resetAll.setWidth 32 ≠ 0 ∧ Reg.storage .resp0 = false := by decide

/-- A step that adds an event, of each context. -/
theorem witness_OnlyAllowedEvents :
    (∃ t, step (running .init .in3 0 idle) = .next t ∧ .caller .eventArm ∈ t.trace) ∧
    (∃ t, step { turns [.handler] (reading [1] idle) with irq := ⟨true, false, 0, 0⟩ } = .next t ∧
      .irq .eventSignal ∈ t.trace) :=
  ⟨⟨_, rfl, by decide⟩, ⟨_, rfl, by decide⟩⟩

theorem witness_OneEventPerStep : ∃ t, step (running .init .in3 0 idle) = .next t := ⟨_, rfl⟩

/-- CS.6 and IN.2 change the record. -/
theorem witness_RecordWrittenOnlyBy :
    (∃ t, step (running (.clkSupply 1) .cs6 0 idle) = .next t ∧ t.h ≠ idle.h) ∧
    (∃ t, step (running .init .in2 1 (reading [5] idle)) = .next t ∧ t.h ≠ idle.h) :=
  ⟨⟨_, rfl, by decide⟩, ⟨_, rfl, by decide⟩⟩

theorem witness_StateWrittenOnlyWhere :
    (∃ t, step (running (.respExtract 0) .sc7 0 (reading [9] idle)) = .next t ∧ t.slots ≠ idle.slots) ∧
    (∃ t, step { turns [.handler] (reading [1] idle) with irq := ⟨true, false, 0, 0⟩ } = .next t ∧ t.ev ≠ idle.ev) ∧
    (∃ t, step (running (.sendCommand cmd17) .sc4 4 (holding { Work.blank with table := some 0 } idle)) = .next t ∧
      t.tableInFlight ≠ idle.tableInFlight) ∧
    (idle.cfg.entry.Tiles ∧ ∃ t, step (writing 0 0 1 .bt2) = .next t ∧ t.mem.read 0xFFFFFFFC ≠ idle.mem.read 0xFFFFFFFC) ∧
    (∃ t, step { running (.buildTable 0 1) .bt3 0 (holding { Work.blank with table := some 0, count := 1 } idle) with
      mem := [(7, 1)] } = .next t ∧ t.dev.read 7 ≠ idle.dev.read 7) ∧
    (∃ t, step (building 0x80000000 512 [some 0x40000000]) = .next t ∧ t.live ≠ idle.live) :=
  ⟨⟨_, rfl, by decide⟩, ⟨_, rfl, by decide⟩, ⟨_, rfl, by decide⟩, ⟨by decide, _, rfl, by decide⟩, ⟨_, rfl, by decide⟩,
    ⟨_, rfl, by decide⟩⟩

theorem witness_AbortedForever :
    ({ idle with st := .aborted } : Machine.State).st = .aborted ∧ ({ idle with st := .aborted } : Machine.State).cur = none ∧
    isExposed (.changeFrequency 0) = true ∧ (∃ t, step { idle with st := .aborted } = .next t) := ⟨rfl, rfl, rfl, _, rfl⟩

/-- An engine whose clock is about to be recorded meets the invariant. -/
theorem witness_Inv_running :
    Inv (holding { Work.blank with freq := 400000, base := 200000000, div := 500, achieved := 400000 }
      (running (.clkSupply 400000) .cs6 0 idle)) where
  memory := by unfold MemoryInv; decide
  control := by unfold ControlInv; exact ⟨.inr rfl, rfl, rfl⟩
  record := by
    refine ⟨?_, ?_, ?_, ?_⟩
    · intro h; cases h
    · intro f _; rfl
    · intro f h; cases h
    · rintro (h | h) <;> cases h
  table := by
    refine ⟨?_, ?_, ?_, ?_⟩
    · intro h; cases h
    · intro _ _ _ h; cases h
    · intro c h; cases h
    · intro _ t n h; cases h
  rate := by
    refine ⟨?_, ?_, ?_, ?_⟩
    · intro f h; cases h
      exact ⟨_, rfl, .inr ⟨500, by decide, by decide, by decide, by decide⟩⟩
    · rintro (h | h) <;> cases h
    · intro h; cases h
    · intro _
      exact ⟨_, rfl, .inr ⟨500, by decide, by decide, by decide, by decide⟩⟩

/-- A read whose table is in the device's hands meets the invariant. -/
theorem witness_Inv_transfer :
    Inv { holding { Work.blank with table := some 0x40000000, count := 1, len := 512 }
        (running (.sendCommand cmd17) .sc5 0 idle) with
      live := [(0x40000000, 8)], tableInFlight := some (0x40000000, 8), mem := [(0x40000000, 0x23)] } where
  memory := by unfold MemoryInv; decide
  control := by unfold ControlInv; exact ⟨.inr rfl, rfl, rfl⟩
  record := by
    refine ⟨?_, ?_, ?_, ?_⟩
    · intro h; cases h
    · intro f h; cases h
    · intro f h; cases h
    · rintro (h | h) <;> cases h
  table := by
    refine ⟨?_, ?_, ?_, ?_⟩
    · intro _; exact ⟨0x40000000, rfl, by decide⟩
    · intro _ _ _ h; cases h
    · intro c h _; cases h; rfl
    · intro _ t n h; cases h; exact ⟨rfl, rfl, rfl, cmd17, rfl⟩
  rate := by
    refine ⟨?_, ?_, ?_, ?_⟩
    · intro f h; cases h
      exact ⟨_, rfl, .inr ⟨500, by decide, by decide, by decide, by decide⟩⟩
    · rintro (h | h) <;> cases h
    · intro h; cases h
    · rintro (h | h | h) <;> cases h

/-- A state that meets the invariant steps, and one with CHANGE_FREQUENCY on offer is one whose port holds a request. -/
theorem witness_StepKeepsInv_port : PortInv { idle with offer := some ⟨.sequence, encode (.changeFrequency 400000)⟩ } where
  left := by intro o h; cases h; decide
  right := by intro i h; cases h

theorem witness_StepKeepsInv :
    ∃ t, step (holding { Work.blank with freq := 400000, base := 200000000, div := 500, achieved := 400000 }
      (running (.clkSupply 400000) .cs6 0 idle)) = .next t ∧ t.st = .idle := ⟨_, rfl, by decide⟩

theorem witness_RunningOperationGoesOn :
    (holding { Work.blank with freq := 400000, base := 200000000, div := 500, achieved := 400000 }
      (running (.clkSupply 400000) .cs6 0 idle)).cur = some (.clkSupply 400000) := rfl

end Sys2Proof.Tests
end

section
/-! PROOFS. The statements of the family 00_scope.md: what IDLE and UNINIT accept and refuse, what a return does, and that
a step records one event at most. The first two parts (how the admission answers, what a turn can end in) are general. -/

namespace Sys2Proof.Machine

/-! ### What the admission answers -/

/-- Nothing refuses a request in IDLE that CONFIG_OPS and the operand domain allow. -/
theorem admission_ready {i : Instr} {s : State} (h : Ready s) (hc : s.cfg.configOps = true ∨ isConfigOp i = false)
    (hd : domainError s.cfg i = none) : admission i s = none := by
  obtain ⟨_, hst, hb⟩ := h
  rcases hc with hc | hc <;> simp [admission, hst, hb, hc, hd]

/-- In IDLE, CONFIG_OPS off refuses operations 3 to 6 (00_scope.md R8, U12). -/
theorem admission_configOpsOff {i : Instr} {s : State} (h : Ready s) (hc : s.cfg.configOps = false)
    (hi : isConfigOp i = true) : admission i s = some .configOpsOff := by
  obtain ⟨_, hst, hb⟩ := h
  simp [admission, hst, hb, hc, hi]

theorem runOp_refused {i : Instr} {start next : State → Result} {s : State} {r : Refusal} (h : s.cur = none)
    (ha : s.st ≠ .aborted) (hi : admission i s = some r) : runOp i start next s = .refused r := by
  simp [runOp, h, ha, hi]

theorem Ready.not_aborted {s : State} (h : Ready s) : s.st ≠ .aborted := by
  obtain ⟨_, hst, _⟩ := h
  simp [hst]

/-- What a request that IDLE takes does: it starts. -/
theorem runOp_ready {i : Instr} {start next : State → Result} {s : State} (h : Ready s)
    (hc : s.cfg.configOps = true ∨ isConfigOp i = false) (hd : domainError s.cfg i = none) :
    runOp i start next s = start s :=
  runOp_accepted h.1 h.not_aborted (admission_ready h hc hd)

theorem runOp_configOpsOff {i : Instr} {start next : State → Result} {s : State} (h : Ready s)
    (hc : s.cfg.configOps = false) (hi : isConfigOp i = true) : runOp i start next s = .refused .configOpsOff :=
  runOp_refused h.1 h.not_aborted (admission_configOpsOff h hc hi)

/-- Whatever a caller may ask for is accepted, refused and run by `runOp`. -/
theorem exec_exposed {i : Instr} (h : isExposed i = true) :
    ∃ start next : State → Result, ∀ s, exec i s = runOp i start next s := by
  cases i <;> cases h <;> exact ⟨_, _, fun _ => rfl⟩

theorem exec_modeEnable (g : Byte) (s : State) : exec (.modeEnable g) s = execModeEnable g s := rfl

/-- Settles O8: each request passes the admission, and starts at the phase its meaning names. -/
theorem idleAcceptsOperations : Obligations.IdleAcceptsOperations := by
  unfold Obligations.IdleAcceptsOperations
  intro s h
  simp only [exec]
  refine ⟨runOp_ready h (.inr rfl) rfl, ?_, ?_, ?_, ?_, ?_, ?_, runOp_ready h (.inr rfl) rfl⟩
  · intro c hidx hdata
    exact runOp_ready h (.inr rfl) (by simp [domainError, cmdDomain, hdata, hidx])
  · intro f b hb
    exact ⟨(runOp_ready h (.inr rfl) rfl).trans (by simp [hb, accept]),
      (runOp_ready h (.inr rfl) rfl).trans (by simp [hb, accept])⟩
  · intro hc
    refine ⟨fun w => runOp_ready h (.inl hc) rfl, ?_, ?_⟩
    · intro b f hb hf
      exact ⟨(runOp_ready h (.inl hc) rfl).trans (by simp [hb, hf, accept]),
        (runOp_ready h (.inl hc) rfl).trans (by simp [hb, hf, accept])⟩
    · intro g
      exact (runOp_ready h (.inl hc) rfl).trans (by simp [h.2.1, accept])
  · intro hc
    exact ⟨fun _ => runOp_configOpsOff h hc rfl, runOp_configOpsOff h hc rfl, runOp_configOpsOff h hc rfl,
      fun _ => runOp_configOpsOff h hc rfl⟩
  · exact fun m => runOp_ready h (.inr rfl) rfl
  · exact fun rt => runOp_ready h (.inr rfl) rfl

/-- What UNINIT answers: the two requests it takes are subject to CONFIG_OPS, any other is refused (R406). -/
theorem admission_uninit {i : Instr} {s : State} (hst : s.st = .uninit) (hb : s.blockGone = false) :
    admission i s =
      if acceptedInUninit i = false then some .notAcceptedInUninit
      else if s.cfg.configOps = false ∧ isConfigOp i = true then some .configOpsOff
      else (domainError s.cfg i).map .outsideDomain := by
  simp [admission, hst, hb]

/-- Settles O9: the admission's answer in UNINIT, for the two requests it takes and for any other. -/
theorem uninitAcceptance : Obligations.UninitAcceptance := by
  unfold Obligations.UninitAcceptance
  intro s hcur hst hb
  have ha : s.st ≠ .aborted := by simp [hst]
  refine ⟨?_, ?_, ?_, ?_⟩
  · have hi : admission .init s = none := by
      simp [admission_uninit hst hb, acceptedInUninit, isConfigOp, domainError]
    exact runOp_accepted hcur ha hi
  · intro g hc
    have hi : admission (.modeEnable g) s = none := by
      simp [admission_uninit hst hb, acceptedInUninit, domainError, hc]
    rw [exec_modeEnable, execModeEnable, runOp_accepted hcur ha hi, hst, accept]
  · intro g hc
    have hi : admission (.modeEnable g) s = some .configOpsOff := by
      simp [admission_uninit hst hb, acceptedInUninit, isConfigOp, hc]
    rw [exec_modeEnable, execModeEnable, runOp_refused hcur ha hi]
  · intro i hi hinit hmode
    have hu : acceptedInUninit i = false := by
      cases i with
      | init => exact absurd rfl hinit
      | modeEnable g => exact absurd rfl (hmode g)
      | _ => rfl
    obtain ⟨start, next, hexec⟩ := exec_exposed hi
    rw [hexec, runOp_refused hcur ha ((admission_uninit hst hb).trans (if_pos hu))]

/-- Settles O15: the laws of `finish`, `leave` and `handOver`, alone and nested. -/
theorem returnFromOperation : Obligations.ReturnFromOperation := by
  unfold Obligations.ReturnFromOperation
  intro s k o
  exact ⟨fun h => ⟨finish_port k h, leave_sequence h, handOver_sequence o h⟩,
    fun _ _ h => ⟨finish_nested k h, leave_nested h, handOver_nested o h⟩⟩

/-! ### What a turn ends in -/

/-- Where the turn gives a next state, `P` holds of it. -/
def EndsIn (P : State → Prop) (r : Result) : Prop := ∀ t, r = .next t → P t

@[simp] theorem endsIn_next (P : State → Prop) (t : State) : EndsIn P (.next t) ↔ P t := by simp [EndsIn]

@[simp] theorem endsIn_fault (P : State → Prop) (f : Fault) : EndsIn P (.fault f) := fun _ h => nomatch h

@[simp] theorem endsIn_refused (P : State → Prop) (r : Refusal) : EndsIn P (.refused r) := fun _ h => nomatch h

/-- What a request ends in: what its acceptance and its events end in, or the same state in ABORTED. -/
theorem runOp_endsIn {P : State → Prop} {i : Instr} {start next : State → Result} {s : State}
    (haborted : s.cur = none → s.st = .aborted → P s)
    (hstart : s.cur = none → admission i s = none → EndsIn P (start s))
    (hnext : s.cur = some i → EndsIn P (next s)) : EndsIn P (runOp i start next s) := by
  obtain ⟨hc, h⟩ | ⟨r, h⟩ | ⟨hc, ha, h⟩ | ⟨hc, _, _, hi, h⟩ := runOp_cases i start next s
  · exact h ▸ hnext hc
  · exact h ▸ endsIn_refused P r
  · exact h ▸ (endsIn_next P s).2 (haborted hc ha)
  · exact h ▸ hstart hc hi

/-- What a turn of the schedule is: a move of the outside, or, in a state that differs in `env` alone, nothing, the handler
or a turn of the caller context (20_memory.md R95, 60_exceptions.md R376). -/
theorem step_cases (s : State) :
    (∃ m r, s.env.sched = .outside m :: r ∧ step s = applyMove m (dropTurn s)) ∨
    (∃ e, step s = .next { s with env := e }) ∨
    (∃ e, step s = .next (takePwrIrq { s with env := e })) ∨
    (∃ e, step s = callerStep { s with env := e }) := by
  unfold step
  split
  · exact .inl ⟨_, _, ‹_›, rfl⟩
  · unfold handlerStep
    split
    · exact .inr (.inr (.inl ⟨_, rfl⟩))
    · exact .inr (.inl ⟨_, rfl⟩)
  · exact .inr (.inr (.inr ⟨_, rfl⟩))
  · unfold freeStep
    split
    · split
      · exact .inr (.inr (.inl ⟨s.env, rfl⟩))
      · split
        · exact .inr (.inr (.inl ⟨_, rfl⟩))
        · exact .inr (.inr (.inr ⟨_, rfl⟩))
    · exact .inr (.inr (.inr ⟨s.env, rfl⟩))

/-! ### What one step adds to the record

`Adds old new`: the record grew from `old` to `new` by what one step may add. The rules below name each way it may grow;
`AddsOne s r` says it of every next state a turn `r` gives. -/

/-- The record `new` is `old` with what a single step may add in front (00_scope.md R12). -/
def Adds (old new : List Record) : Prop :=
  ∃ added : List Record, new = added ++ old ∧
    (added = [] ∨ (∃ r, added = [r]) ∨ (∃ k e, added = [.answer k, .caller e]) ∨
      (∃ a e, added = [.table a, .caller e]) ∨ (∃ k e, added = [.decoded k, .caller e]) ∨
      (∃ m a, added = [.irq .eventSignal, .irq (.pwrWrite .ctl a), .irq (.pwrRead .mask m)]))

@[simp] theorem adds_nothing (l : List Record) : Adds l l := ⟨[], rfl, .inl rfl⟩

@[simp] theorem adds_record (r : Record) (l : List Record) : Adds l (r :: l) := ⟨[r], rfl, .inr (.inl ⟨r, rfl⟩)⟩

@[simp] theorem adds_event_answer (k : Status) (e : Event) (l : List Record) :
    Adds l (.answer k :: .caller e :: l) := ⟨[_, _], rfl, .inr (.inr (.inl ⟨k, e, rfl⟩))⟩

@[simp] theorem adds_event_table (a : Word) (e : Event) (l : List Record) :
    Adds l (.table a :: .caller e :: l) := ⟨[_, _], rfl, .inr (.inr (.inr (.inl ⟨a, e, rfl⟩)))⟩

@[simp] theorem adds_event_decoded (k : Option Status) (e : Event) (l : List Record) :
    Adds l (.decoded k :: .caller e :: l) := ⟨[_, _], rfl, .inr (.inr (.inr (.inr (.inl ⟨k, e, rfl⟩))))⟩

@[simp] theorem adds_handler (a m : Word) (l : List Record) :
    Adds l (.irq .eventSignal :: .irq (.pwrWrite .ctl a) :: .irq (.pwrRead .mask m) :: l) :=
  ⟨[_, _, _], rfl, .inr (.inr (.inr (.inr (.inr ⟨m, a, rfl⟩))))⟩

/-- Every next state the turn `r` from `s` gives has the record of `s` with what a single step may add. -/
abbrev AddsOne (s : State) (r : Result) : Prop := EndsIn (fun t => Adds s.trace t.trace) r

/-! #### The record after the shared operations -/

@[simp] theorem alloc_trace (n : Nat) (b : Word) (l : Nat) (z : Bool) (s : State) :
    (alloc n b l z s).trace = .caller (.alloc n s.cfg.descAlign (allocAnswer n b l s)) :: s.trace := rfl

@[simp] theorem leave_trace (s : State) : (leave s).trace = s.trace := by unfold leave; split <;> rfl

/-- The handler's record is its three events in order (40_power_handshake.md R170). -/
@[simp] theorem takePwrIrq_adds (s : State) : Adds s.trace (takePwrIrq s).trace := adds_handler _ _ _

/-- A return stands alone in its step, or after one event. -/
@[simp] theorem finish_adds {l : List Record} {s : State} (k : Status)
    (h : s.trace = l ∨ ∃ e, s.trace = .caller e :: l) : Adds l (finish k s).trace := by
  unfold finish
  split
  · rcases h with h | ⟨e, h⟩ <;> simp [h]
  · rcases h with h | ⟨e, h⟩ <;> simp [h]

/-- A sequence's output stands after one event, where such an output may stand there. -/
theorem handOver_adds {l : List Record} {s : State} {r : Record} (h : ∃ e, s.trace = .caller e :: l)
    (hr : ∀ e, Adds l (r :: .caller e :: l)) : Adds l (handOver r s).trace := by
  obtain ⟨e, h⟩ := h
  unfold handOver
  split
  · simpa [h] using hr e
  · simp [h]

/-- The one store of `WriteEntry` is one event. -/
theorem entryWrite_trace (f : Nat) (t : Word) (i : Nat) (addr : Word) (len attr : Half) (s : State) :
    ∃ e, (entryWrite f t i addr len attr s).trace = .caller e :: s.trace := by
  obtain ⟨fo, n, v, h, _⟩ := entryWrite_cases f t i addr len attr s
  exact ⟨.memWrite (entryAddr t i fo) n v, by simp [h]⟩

@[simp] theorem accept_adds (i : Instr) (p home : Phase) (w : Work) (s : State) : AddsOne s (accept i p home w s) := by
  simp [accept]

/-- A request adds what its acceptance and its events add. -/
theorem runOp_adds {i : Instr} {start next : State → Result} {s : State} (hstart : AddsOne s (start s))
    (hnext : AddsOne s (next s)) : AddsOne s (runOp i start next s) :=
  runOp_endsIn (fun _ _ => adds_nothing _) (fun _ _ => hstart) (fun _ => hnext)

/-! #### CLK_SUPPLY and CHANGE_FREQUENCY -/

theorem csRange_adds (s : State) : AddsOne s (csRange s) := by
  unfold csRange
  split
  · simp
  · split <;> simp

theorem csSearch_adds (s : State) : Adds s.trace (csSearch s).trace := by
  unfold csSearch
  split
  · simp
  · split <;> simp

theorem csSpin_adds (s : State) : Adds s.trace (csSpin s).trace := by
  unfold csSpin
  split
  · simp
  · dsimp only
    split <;> simp

theorem clkSupplyStep_adds (s : State) : AddsOne s (clkSupplyStep s) := by
  unfold clkSupplyStep
  split
  · exact csRange_adds s
  · simp only [csPassThrough, endsIn_next]
    split <;> simp
  · simpa using csSearch_adds s
  · simp [csWrite]
  · split
    · simpa using csSpin_adds s
    · simp [csEnable]
  · simp [csRecord]
  · simp

theorem cfIdle_adds (s : State) : Adds s.trace (cfIdle s).trace := by
  unfold cfIdle
  dsimp only
  split <;> simp

theorem cfDisable_adds (s : State) : Adds s.trace (cfDisable s).trace := by
  unfold cfDisable
  split <;> simp

theorem cfSupply_adds (freq : Word) (s : State) : AddsOne s (cfSupply freq s) := by
  unfold cfSupply
  split
  · simp
  · split <;> simp

theorem changeFrequencyStep_adds (freq : Word) (s : State) : AddsOne s (changeFrequencyStep freq s) := by
  unfold changeFrequencyStep
  split
  · simpa using cfIdle_adds s
  · simpa using cfDisable_adds s
  · exact cfSupply_adds freq s
  · exact clkSupplyStep_adds s

/-! #### BUILD_TABLE and ADMA2_ENTRY -/

theorem btAlloc_adds (s : State) : Adds s.trace (btAlloc s).trace := by
  unfold btAlloc
  dsimp only
  split <;> simp

theorem btEntry_adds (t : Word) (s : State) : Adds s.trace (btEntry t s).trace := by
  obtain ⟨e, h⟩ := entryWrite_trace s.pos t s.work.idx s.work.addr
    ((entryLen s.cfg.maxLine s.work.count s.work.idx s.work.rem).setWidth 16)
    (entryAttr s.cfg.entry (decide (s.work.idx + 1 = s.work.count))) s
  unfold btEntry
  dsimp only
  split
  · simp [h]
  · split <;> simp [h]

theorem btClean_adds (t : Word) (s : State) : Adds s.trace (btClean t s).trace :=
  handOver_adds ⟨_, rfl⟩ fun _ => adds_event_table _ _ _

theorem buildTableStep_adds (s : State) : AddsOne s (buildTableStep s) := by
  unfold buildTableStep
  split
  · simpa using btAlloc_adds s
  · split
    · simpa using btEntry_adds _ s
    · simp
  · split
    · simpa using btClean_adds _ s
    · simp
  · simp

theorem entryStep_adds (addr : Word) (len : Half) (e : Bool) (s : State) : AddsOne s (entryStep addr len e s) := by
  unfold entryStep
  split
  · split
    · simp
    · rename_i t _
      obtain ⟨ev, h⟩ := entryWrite_trace s.pos t s.work.idx addr len (entryAttr s.cfg.entry e) s
      simp only [endsIn_next]
      split <;> simp [h]
  · simp

/-! #### RESP_EXTRACT and ERR_DECODE: the way they end adds nothing, or the kind found -/

theorem respExtractStep_adds (rt : BitVec 2) {done : State → State} (hd : ∀ u, (done u).trace = u.trace) (s : State) :
    Adds s.trace (respExtractStep rt done s).trace := by
  unfold respExtractStep
  split
  · dsimp only
    split <;> simp [hd]
  · simp
  · simp
  · simp [hd]

theorem errDecodeStep_adds {done : State → State} {s : State}
    (hd : ∀ u e, u.trace = .caller e :: s.trace → Adds s.trace (done u).trace) :
    Adds s.trace (errDecodeStep done s).trace := by
  unfold errDecodeStep
  split
  · dsimp only
    split
    · simp
    · exact hd _ (.regRead .nrmlIntSts (readValue .nrmlIntSts s)) (by simp)
  · exact hd _ (.regRead .errIntSts (readValue .errIntSts s)) (by simp)

/-! #### SOFT_RESET and SEND_COMMAND -/

theorem srSpin_adds (s : State) : Adds s.trace (srSpin s).trace := by
  unfold srSpin
  split
  · simp
  · dsimp only
    split <;> simp

theorem softResetStep_adds (s : State) : AddsOne s (softResetStep s) := by
  unfold softResetStep
  split
  · simp [srWrite]
  · simpa using srSpin_adds s
  · simp

theorem scIdle_adds (s : State) : Adds s.trace (scIdle s).trace := by
  unfold scIdle
  split
  · simp
  · dsimp only
    split <;> simp

theorem scMap_adds (c : Cmd) (s : State) : Adds s.trace (scMap c s).trace := by
  unfold scMap
  split <;> simp

theorem scData_adds (c : Cmd) (s : State) : AddsOne s (scData c s) := by
  unfold scData
  split
  · simp only [endsIn_next]
    split <;> simp
  · simp
  · simp
  · simp
  · split <;> simp
  · simp

theorem scIssue_adds (c : Cmd) (s : State) : Adds s.trace (scIssue c s).trace := by
  unfold scIssue
  split <;> simp

theorem scCmdPoll_adds (s : State) : Adds s.trace (scCmdPoll s).trace := by
  unfold scCmdPoll
  split
  · simp
  · dsimp only
    split <;> simp
  · simp

theorem scTransPoll_adds (c : Cmd) (s : State) : Adds s.trace (scTransPoll c s).trace := by
  unfold scTransPoll
  split
  · split <;> simp
  · simp
  · dsimp only
    split <;> simp
  · simp

theorem scCleanup_adds (c : Cmd) (s : State) : Adds s.trace (scCleanup c s).trace := by
  unfold scCleanup
  split <;> simp

theorem scEnd_adds (c : Cmd) (s : State) : AddsOne s (scEnd c s) := by
  unfold scEnd
  split
  · simp
  · split
    · split <;> simp
    · simp

theorem sendCommandStep_adds (c : Cmd) (s : State) : AddsOne s (sendCommandStep c s) := by
  unfold sendCommandStep
  split
  · simpa using scIdle_adds s
  · simpa using scMap_adds c s
  · simp [scTimeout]
  · exact scData_adds c s
  · simpa using scIssue_adds c s
  · simpa using scCmdPoll_adds s
  · simpa using respExtractStep_adds s.work.rt (done := goTo .sc8 0) (fun _ => rfl) s
  · simpa using scTransPoll_adds c s
  · simpa using errDecodeStep_adds (done := goTo .sc10 0) (fun u e h => by simp [h])
  · simpa using scCleanup_adds c s
  · exact scEnd_adds c s
  · exact softResetStep_adds s
  · exact softResetStep_adds s
  · exact buildTableStep_adds s

/-! #### INIT and the configuration operations -/

theorem setBusWidthStep_adds (s : State) : AddsOne s (setBusWidthStep s) := by
  unfold setBusWidthStep
  split
  · simp only [bwCode, endsIn_next]
    split <;> simp
  · simp only [bwWrite, endsIn_next]
    split <;> simp
  · simp

theorem modeClockOff_adds (here after : Phase) (s : State) : Adds s.trace (modeClockOff here after s).trace := by
  unfold modeClockOff
  split <;> simp

theorem modeSelect_adds (here after : Phase) (bit : Half) (s : State) :
    Adds s.trace (modeSelect here after bit s).trace := by
  unfold modeSelect
  split <;> simp

theorem modeClockOn_adds (here : Phase) (s : State) : AddsOne s (modeClockOn here s) := by
  unfold modeClockOn
  split
  · split <;> simp
  · simp

theorem setSdrModeStep_adds (s : State) : AddsOne s (setSdrModeStep s) := by
  unfold setSdrModeStep
  split
  · simpa using modeClockOff_adds .sm1 .sm2 s
  · simpa using modeSelect_adds .sm2 .sm3 s.cfg.bits.sdr50ModeEn s
  · exact modeClockOn_adds .sm3 s
  · exact clkSupplyStep_adds s

theorem setDdrModeStep_adds (s : State) : AddsOne s (setDdrModeStep s) := by
  unfold setDdrModeStep
  split
  · simpa using modeClockOff_adds .dm1 .dm2 s
  · simpa using modeSelect_adds .dm2 .dm3 s.cfg.bits.ddrModeEn s
  · exact modeClockOn_adds .dm3 s
  · exact clkSupplyStep_adds s

theorem inCaps_adds (s : State) : Adds s.trace (inCaps s).trace := by
  unfold inCaps
  split <;> simp

theorem inPower_adds (s : State) : AddsOne s (inPower s) := by
  unfold inPower
  split
  · simp
  · simp only [endsIn_next]
    split <;> simp

theorem inWait_adds (s : State) : Adds s.trace (inWait s).trace := by
  unfold inWait
  split <;> simp

theorem inEnables_adds (s : State) : Adds s.trace (inEnables s).trace := by
  unfold inEnables
  split <;> simp

theorem initStep_adds (s : State) : AddsOne s (initStep s) := by
  unfold initStep
  split
  · simp [inReset]
  · simpa using inCaps_adds s
  · simp
  · simp
  · simp
  · exact inPower_adds s
  · simpa using inWait_adds s
  · simp
  · simp
  · simpa using inEnables_adds s
  · simp
  · exact setBusWidthStep_adds s
  · exact setBusWidthStep_adds s
  · exact softResetStep_adds s

/-! #### Instructions and turns -/

/-- A hardware-side word of the caller context is one event, or none in ABORTED. -/
theorem callerEvent_adds (i : Instr) {f : State → State} {s : State} (hf : Adds s.trace (f s).trace) :
    AddsOne s (callerEvent i f s) := by
  unfold callerEvent
  split
  · simp
  · split <;> simp [hf]

theorem exec_adds (i : Instr) (s : State) : AddsOne s (exec i s) := by
  cases i with
  | init =>
    rw [exec, execInit]
    exact runOp_adds (by simp) (initStep_adds s)
  | sendCommand c =>
    rw [exec, execSendCommand]
    exact runOp_adds (by simp) (sendCommandStep_adds c s)
  | clkSupply f =>
    rw [exec, execClkSupply]
    refine runOp_adds ?_ (clkSupplyStep_adds s)
    split <;> simp
  | setBusWidth w =>
    rw [exec, execSetBusWidth]
    exact runOp_adds (by simp) (setBusWidthStep_adds s)
  | setSdrMode =>
    rw [exec, execSetSdrMode]
    refine runOp_adds ?_ (setSdrModeStep_adds s)
    split
    · simp
    · split <;> simp
  | setDdrMode =>
    rw [exec, execSetDdrMode]
    refine runOp_adds ?_ (setDdrModeStep_adds s)
    split
    · simp
    · split <;> simp
  | modeEnable g =>
    rw [exec, execModeEnable]
    refine runOp_adds (by simp) ?_
    split <;> simp [meWrite]
  | reserved7 => exact endsIn_refused _ _
  | reserved14 => exact endsIn_refused _ _
  | reserved15 => exact endsIn_refused _ _
  | changeFrequency f =>
    rw [exec, execChangeFrequency]
    refine runOp_adds ?_ (changeFrequencyStep_adds f s)
    split <;> simp
  | buildTable a n =>
    rw [exec, execBuildTable]
    exact runOp_adds (by simp) (buildTableStep_adds s)
  | softReset m =>
    rw [exec, execSoftReset]
    exact runOp_adds (by simp) (softResetStep_adds s)
  | respExtract rt =>
    rw [exec, execRespExtract]
    refine runOp_adds (by simp) ?_
    split
    · simpa using respExtractStep_adds rt leave_trace s
    · simp
  | errDecode =>
    rw [exec, execErrDecode]
    refine runOp_adds (by simp) ?_
    split
    · simpa using errDecodeStep_adds (done := edHandOver) fun u e h =>
        handOver_adds ⟨e, h⟩ fun _ => adds_event_decoded _ _ _
    · simp
  | pwrIrq => simp [exec, execPwrIrq]
  | wordCmd i t p r =>
    rw [exec, execWordCmd]
    exact callerEvent_adds _ (by simp)
  | wordTransmode m d a c =>
    rw [exec, execWordTransmode]
    exact callerEvent_adds _ (by simp)
  | wordClk l h =>
    rw [exec, execWordClk]
    exact callerEvent_adds _ (by simp)
  | wordSwReset d c a =>
    rw [exec, execWordSwReset]
    exact callerEvent_adds _ (by simp)
  | wordPwrAck i b => simp [exec, execWordPwrAck]
  | wordStsClear t c =>
    rw [exec, execWordStsClear]
    exact callerEvent_adds _ (by simp)
  | adma2Entry a n e =>
    rw [exec, execAdma2Entry]
    refine runOp_adds ?_ (entryStep_adds a n e s)
    split <;> simp

/-- The outside's moves are no events of the engine. -/
theorem applyMove_adds (m : Move) (s : State) : AddsOne s (applyMove m s) := by
  cases m with
  | offer o =>
    obtain ⟨_, h⟩ | ⟨r, h⟩ | ⟨w, _, _, _, _, _, h⟩ := offerWord_cases o s <;> simp [applyMove, h]
  | refill a =>
    simp only [applyMove, endsIn_next]
    split <;> simp
  | _ => simp [applyMove]

theorem callerStep_adds (s : State) : AddsOne s (callerStep s) := by
  obtain ⟨i, _, h⟩ | ⟨_, h⟩ | ⟨r, h⟩ | ⟨o, i, _, _, _, _, h⟩ := callerStep_cases s
  · exact h ▸ exec_adds i s
  · simp [h]
  · simp [h]
  · exact h ▸ exec_adds i { s with offer := none }

theorem step_adds (s : State) : AddsOne s (step s) := by
  obtain ⟨m, _, _, h⟩ | ⟨e, h⟩ | ⟨e, h⟩ | ⟨e, h⟩ := step_cases s
  · exact h ▸ applyMove_adds m (dropTurn s)
  · simp [h]
  · exact h ▸ (endsIn_next ..).2 (takePwrIrq_adds { s with env := e })
  · exact h ▸ callerStep_adds { s with env := e }

/-- Settles O53, turn by turn: each phase of each operation performs one primitive at most before it returns, and the
handler's three events are one turn. -/
theorem oneEventPerStep : Obligations.OneEventPerStep := by
  unfold Obligations.OneEventPerStep
  exact fun s t h => step_adds s t h

end Sys2Proof.Machine
end

section
/-! PROOFS. The statements of the family 10_state.md, first part: what one turn can do to the fields that few phases
write (H, the slots, the event, memory, the live blocks, the table in flight), to the port and to the record. `Effect`
says it once, for every state, and the frame statements are case analyses over it. -/

namespace Sys2Proof.Machine

/-! ### Records the register table allows -/

/-- An event of a context is allowed where the register table allows it; a status and an output are no events. -/
def Record.allowed : Record → Bool
  | .caller e | .irq e => e.allowed
  | .answer _ | .table _ | .decoded _ => true

/-- The record `new` is `old` with allowed records in front. -/
def Allows (old new : List Record) : Prop := ∃ added, new = added ++ old ∧ ∀ r ∈ added, r.allowed = true

@[simp] theorem allows_self (l : List Record) : Allows l l := ⟨[], rfl, by simp⟩

@[simp] theorem allows_cons {r : Record} {l m : List Record} (hr : r.allowed = true) (h : Allows l m) :
    Allows l (r :: m) := by
  obtain ⟨added, rfl, ha⟩ := h
  exact ⟨r :: added, rfl, by simpa [hr] using ha⟩

theorem Allows.trans {k l m : List Record} (h : Allows k l) (h' : Allows l m) : Allows k m := by
  obtain ⟨a, rfl, ha⟩ := h
  obtain ⟨b, rfl, hb⟩ := h'
  exact ⟨b ++ a, by simp, by simpa [or_imp, forall_and] using ⟨hb, ha⟩⟩

theorem Allows.mem {l m : List Record} (h : Allows l m) {r : Record} (hr : r ∈ m) : r ∈ l ∨ r.allowed = true := by
  obtain ⟨added, rfl, ha⟩ := h
  exact (List.mem_append.1 hr).elim (fun h => .inr (ha r h)) .inl

@[simp] theorem record_allowed :
    (∀ e, (Record.caller e).allowed = e.allowed) ∧ (∀ e, (Record.irq e).allowed = e.allowed) ∧
    (∀ k, (Record.answer k).allowed = true) ∧ (∀ t, (Record.table t).allowed = true) ∧
    (∀ o, (Record.decoded o).allowed = true) := by
  and_intros <;> exact fun _ => rfl

/-- What the register table says of the events the engine performs; a write is recorded at the width of its register. -/
@[simp] theorem event_allowed :
    (∀ r v, (Event.regRead r v).allowed = r.isRead) ∧ (∀ r v, (Event.regWrite r (v &&& r.bits)).allowed = r.written) ∧
    (∀ v, (Event.pwrRead .mask v).allowed = true) ∧ (∀ r v, (Event.pwrWrite r v).allowed = true) ∧
    (∀ a n v, (Event.memWrite a n v).allowed = (n == 2 || n == 4)) ∧ (∀ n l a, (Event.alloc n l a).allowed = true) ∧
    (∀ a, (Event.free a).allowed = true) ∧ (∀ a n, (Event.cacheClean a n).allowed = true) ∧
    (∀ a n, (Event.cacheInvalidate a n).allowed = true) ∧ (∀ us, (Event.delay us).allowed = true) ∧
    (∀ n, (Event.irqUnmask n).allowed = true) ∧ Event.eventArm.allowed = true ∧ Event.eventSignal.allowed = true ∧
    Event.eventWait.allowed = true := by
  refine ⟨fun _ _ => rfl, fun r v => ?_, ?_⟩
  · simp [Event.allowed, BitVec.and_assoc]
  · and_intros <;> intros <;> rfl

/-! ### The record after the shared operations -/

@[simp] theorem finish_allows {l : List Record} {s : State} (k : Status) (h : Allows l s.trace) :
    Allows l (finish k s).trace := by
  unfold finish
  split
  · exact h
  · exact allows_cons rfl h

@[simp] theorem handOver_allows {l : List Record} {s : State} {r : Record} (hr : r.allowed = true)
    (h : Allows l s.trace) : Allows l (handOver r s).trace := by
  unfold handOver
  split <;> simp [hr, h]

/-- The handler's three events are allowed. -/
@[simp] theorem takePwrIrq_allows (s : State) : Allows s.trace (takePwrIrq s).trace :=
  allows_cons rfl (allows_cons rfl (allows_cons rfl (allows_self _)))

/-! ### The operation after the shared operations -/

/-- Where `c` was running, `d` is still that or nothing. -/
def Stays (c d : Option Instr) : Prop := d = c ∨ d = none

@[simp] theorem stays_self (c : Option Instr) : Stays c c := .inl rfl

@[simp] theorem stays_none (c : Option Instr) : Stays c none := .inr rfl

@[simp] theorem finish_stays {c : Option Instr} {s : State} (k : Status) (h : Stays c s.cur) :
    Stays c (finish k s).cur := by
  unfold finish
  split
  · exact h
  · exact stays_none c

@[simp] theorem leave_stays {c : Option Instr} {s : State} (h : Stays c s.cur) : Stays c (leave s).cur := by
  unfold leave
  split
  · exact h
  · exact stays_none c

@[simp] theorem handOver_stays {c : Option Instr} {s : State} (r : Record) (h : Stays c s.cur) :
    Stays c (handOver r s).cur := by
  unfold handOver
  split <;> simp [h]

/-! ### Fields the shared operations leave alone -/

@[simp] theorem finish_fields (k : Status) (s : State) :
    (finish k s).cfg = s.cfg ∧ (finish k s).home = s.home ∧ (finish k s).h = s.h ∧ (finish k s).slots = s.slots ∧
    (finish k s).ev = s.ev ∧ (finish k s).ctl = s.ctl ∧ (finish k s).mem = s.mem ∧ (finish k s).dev = s.dev ∧
    (finish k s).dirty = s.dirty ∧ (finish k s).live = s.live ∧ (finish k s).tableInFlight = s.tableInFlight ∧
    (finish k s).offer = s.offer := by
  unfold finish
  split <;> and_intros <;> rfl

@[simp] theorem leave_fields (s : State) :
    (leave s).cfg = s.cfg ∧ (leave s).home = s.home ∧ (leave s).h = s.h ∧ (leave s).slots = s.slots ∧
    (leave s).ev = s.ev ∧ (leave s).ctl = s.ctl ∧ (leave s).mem = s.mem ∧ (leave s).dev = s.dev ∧
    (leave s).dirty = s.dirty ∧ (leave s).live = s.live ∧ (leave s).tableInFlight = s.tableInFlight ∧
    (leave s).offer = s.offer := by
  unfold leave
  split <;> and_intros <;> rfl

@[simp] theorem handOver_fields (r : Record) (s : State) :
    (handOver r s).cfg = s.cfg ∧ (handOver r s).home = s.home ∧ (handOver r s).h = s.h ∧
    (handOver r s).slots = s.slots ∧ (handOver r s).ev = s.ev ∧ (handOver r s).ctl = s.ctl ∧
    (handOver r s).mem = s.mem ∧ (handOver r s).dev = s.dev ∧ (handOver r s).dirty = s.dirty ∧
    (handOver r s).live = s.live ∧ (handOver r s).tableInFlight = s.tableInFlight ∧
    (handOver r s).offer = s.offer := by
  unfold handOver
  split <;> simp

/-! ### What a turn can do -/

/-- From `s` to `t` none of the fields that few phases write moves, what runs goes on or ends, and the record grows by
allowed records alone. -/
def Quiet (s t : State) : Prop :=
  t.cfg = s.cfg ∧ t.h = s.h ∧ t.slots = s.slots ∧ t.ev = s.ev ∧ t.mem = s.mem ∧ t.dev = s.dev ∧ t.dirty = s.dirty ∧
  t.live = s.live ∧ t.tableInFlight = s.tableInFlight ∧ t.offer = s.offer ∧ Stays s.cur t.cur ∧ Allows s.trace t.trace

theorem Quiet.refl (s : State) : Quiet s s := by simp [Quiet]

/-- What instruction `i` can do to the fields that few phases write: nothing, its acceptance, or one of the writes, each
by the phase that owns it (10_state.md R27, R33, R60; 41_clock_controller.md R197; 45_init_and_config_ops.md R312). -/
inductive Effect (i : Instr) (s t : State) : Prop
  | quiet (h : Quiet s t)
  | accepted (hc : s.cur = none) (h : Quiet { s with cur := some i } t)
  | rate (hst : s.st = .cs6) (h : Quiet { s with h := { s.h with curClkRate := some s.work.achieved } } t)
  | caps (c2 : Word) (hst : s.st = .in2) (htrace : t.trace = .caller (.regRead .caps2 c2) :: s.trace)
      (h : Quiet { s with h := capRecord s.cfg.bits s.work.tmp c2 } t)
  | slots (q : Quad) (hst : s.st = .sc7) (h : Quiet { s with slots := q } t)
  | event (hst : s.st = .in3 ∨ s.st = .in7) (h : Quiet { s with ev := false } t)
  | handler (h : t = takePwrIrq s)
  | handToDevice (a : Word) (hst : s.st = .sc4) (ha : s.work.table = some a)
      (h : Quiet { s with tableInFlight := some (a, 8 * s.work.count) } t)
  | alloc (n : Nat) (b : Word) (l : Nat) (z : Bool) (hst : s.st = .bt1) (h : Quiet (alloc n b l z s) t)
  | entry (f : Nat) (tb addr : Word) (len attr : Half) (hst : s.st = .bt2) (htb : s.work.table = some tb)
      (h : Quiet (entryWrite f tb s.work.idx addr len attr s) t)
  | clean (tb : Word) (hst : s.st = .bt3) (htb : s.work.table = some tb)
      (h : Quiet (cacheClean tb (8 * s.work.count) s) t)
  | invalidate (c : Cmd) (hst : s.st = .sc11) (hc : s.cur = some (.sendCommand c))
      (h : Quiet (cacheInvalidate c.buf s.work.len.toNat s) t)
  | release (tb : Word) (hst : s.st = .sc11) (htb : s.work.table = some tb) (h : Quiet (free tb s) t)

/-- Every next state the turn `r` of instruction `i` gives from `s` differs from `s` by an effect of `i`. -/
abbrev HasEffect (i : Instr) (s : State) (r : Result) : Prop := EndsIn (Effect i s) r

variable {i : Instr}

/-! #### CLK_SUPPLY and CHANGE_FREQUENCY -/

theorem clkSupplyStep_effect (s : State) : HasEffect i s (clkSupplyStep s) := by
  unfold clkSupplyStep
  split
  · unfold csRange
    split
    · simp
    · refine (endsIn_next ..).2 (.quiet ?_)
      split <;> simp [Quiet]
  · refine (endsIn_next ..).2 (.quiet ?_)
    unfold csPassThrough
    split <;> simp [Quiet]
  · refine (endsIn_next ..).2 (.quiet ?_)
    unfold csSearch
    split
    · simp [Quiet]
    · split <;> simp [Quiet]
  · exact (endsIn_next ..).2 (.quiet (by simp [Quiet, csWrite, Reg.written]))
  · refine (endsIn_next ..).2 (.quiet ?_)
    split
    · unfold csSpin
      split
      · simp [Quiet]
      · dsimp only
        split <;> simp [Quiet, Reg.isRead]
    · simp [Quiet, csEnable, Reg.written]
  · rename_i hst
    exact (endsIn_next ..).2 (.rate hst (by simp [Quiet, csRecord]))
  · simp

theorem changeFrequencyStep_effect (freq : Word) (s : State) : HasEffect i s (changeFrequencyStep freq s) := by
  unfold changeFrequencyStep
  split
  · refine (endsIn_next ..).2 (.quiet ?_)
    unfold cfIdle
    dsimp only
    split <;> simp [Quiet, Reg.isRead]
  · refine (endsIn_next ..).2 (.quiet ?_)
    unfold cfDisable
    split <;> simp [Quiet, Reg.isRead, Reg.written]
  · unfold cfSupply
    split
    · exact (endsIn_next ..).2 (.quiet (by simp [Quiet]))
    · split
      · exact (endsIn_next ..).2 (.quiet (by simp [Quiet]))
      · simp
  · exact clkSupplyStep_effect s

/-! #### BUILD_TABLE and ADMA2_ENTRY -/

/-- The one store of `WriteEntry` is 2 or 4 bytes wide. -/
@[simp] theorem entryWrite_allows {l : List Record} {s : State} (f : Nat) (t : Word) (i : Nat) (addr : Word)
    (len attr : Half) (h : Allows l s.trace) : Allows l (entryWrite f t i addr len attr s).trace := by
  unfold entryWrite
  split <;> simp [h]

theorem buildTableStep_effect (s : State) : HasEffect i s (buildTableStep s) := by
  unfold buildTableStep
  split
  · rename_i hst
    refine (endsIn_next ..).2 (.alloc (8 * entryCount s.cfg.maxLine.toNat s.work.len.toNat) s.work.addr
      s.work.len.toNat (decide (1 < entryCount s.cfg.maxLine.toNat s.work.len.toNat)) hst ?_)
    unfold btAlloc
    dsimp only
    split <;> simp [Quiet]
  · rename_i hst
    split
    · rename_i t ht
      refine (endsIn_next ..).2 (.entry s.pos t s.work.addr
        ((entryLen s.cfg.maxLine s.work.count s.work.idx s.work.rem).setWidth 16)
        (entryAttr s.cfg.entry (decide (s.work.idx + 1 = s.work.count))) hst ht ?_)
      unfold btEntry
      dsimp only
      split
      · simp [Quiet]
      · split <;> simp [Quiet]
    · simp
  · rename_i hst
    split
    · exact (endsIn_next ..).2 (.clean _ hst ‹_› (by simp [Quiet, btClean]))
    · simp
  · simp

theorem entryStep_effect (addr : Word) (len : Half) (e : Bool) (s : State) :
    HasEffect i s (entryStep addr len e s) := by
  unfold entryStep
  split
  · rename_i hst
    split
    · simp
    · rename_i t ht
      refine (endsIn_next ..).2 (.entry s.pos t addr len (entryAttr s.cfg.entry e) hst ht ?_)
      split <;> simp [Quiet]
  · simp

/-! #### RESP_EXTRACT and ERR_DECODE, with a way to end that is quiet -/

theorem respExtractStep_effect (rt : BitVec 2) {done : State → State} {s : State} (hst : s.st = .sc7)
    (hd : ∀ u v, Quiet u v → Quiet u (done v)) : Effect i s (respExtractStep rt done s) := by
  unfold respExtractStep
  split
  · dsimp only
    split
    · exact .quiet (by simp [Quiet, Reg.isRead])
    · exact .slots { s.slots with w0 := readValue .resp0 s } hst (hd _ _ (by simp [Quiet, Reg.isRead]))
  · exact .quiet (by simp [Quiet, Reg.isRead])
  · exact .quiet (by simp [Quiet, Reg.isRead])
  · exact .slots (reassemble { s.work.raw with w3 := readValue .resp3 s }) hst
      (hd _ _ (by simp [Quiet, Reg.isRead]))

theorem errDecodeStep_effect {done : State → State} (hd : ∀ u v, Quiet u v → Quiet u (done v)) (s : State) :
    Quiet s (errDecodeStep done s) := by
  unfold errDecodeStep
  split
  · dsimp only
    split
    · simp [Quiet, Reg.isRead]
    · exact hd _ _ (by simp [Quiet, Reg.isRead])
  · exact hd _ _ (by simp [Quiet, Reg.isRead])

theorem Quiet.goTo {s t : State} (h : Quiet s t) (p : Phase) (q : Nat) : Quiet s (goTo p q t) := by
  simpa [Quiet] using h

theorem Quiet.leave {s t : State} (h : Quiet s t) : Quiet s (leave t) := by
  obtain ⟨hcfg, hh, hslots, hev, hmem, hdev, hdirty, hlive, htable, hoffer, hcur, htrace⟩ := h
  simp [Quiet, *]

theorem Quiet.edHandOver {s t : State} (h : Quiet s t) : Quiet s (edHandOver t) := by
  obtain ⟨hcfg, hh, hslots, hev, hmem, hdev, hdirty, hlive, htable, hoffer, hcur, htrace⟩ := h
  simp [Quiet, Machine.edHandOver, *]

/-! #### SOFT_RESET and SEND_COMMAND -/

theorem softResetStep_effect (s : State) : HasEffect i s (softResetStep s) := by
  unfold softResetStep
  split
  · exact (endsIn_next ..).2 (.quiet (by simp [Quiet, srWrite, Reg.written]))
  · refine (endsIn_next ..).2 (.quiet ?_)
    unfold srSpin
    split
    · simp [Quiet]
    · dsimp only
      split <;> simp [Quiet, Reg.isRead]
  · simp

theorem scIdle_quiet (s : State) : Quiet s (scIdle s) := by
  unfold scIdle
  split
  · simp [Quiet, Reg.isRead]
  · dsimp only
    split <;> simp [Quiet]

theorem scData_effect (c : Cmd) {s : State} (hst : s.st = .sc4) : HasEffect i s (scData c s) := by
  unfold scData
  split
  · refine (endsIn_next ..).2 (.quiet ?_)
    split <;> simp [Quiet]
  · exact (endsIn_next ..).2 (.quiet (by simp [Quiet, Reg.written]))
  · exact (endsIn_next ..).2 (.quiet (by simp [Quiet, Reg.written]))
  · exact (endsIn_next ..).2 (.quiet (by simp [Quiet, Reg.written]))
  · split
    · simp
    · exact (endsIn_next ..).2 (.handToDevice _ hst ‹_› (by simp [Quiet, Reg.written]))
  · exact (endsIn_next ..).2 (.quiet (by simp [Quiet, Reg.written]))

theorem scCmdPoll_quiet (s : State) : Quiet s (scCmdPoll s) := by
  unfold scCmdPoll
  split
  · simp [Quiet, Reg.isRead]
  · dsimp only
    split <;> simp [Quiet]
  · simp [Quiet, Reg.written]

theorem scTransPoll_quiet (c : Cmd) (s : State) : Quiet s (scTransPoll c s) := by
  unfold scTransPoll
  split
  · split <;> simp [Quiet]
  · simp [Quiet, Reg.isRead]
  · dsimp only
    split <;> simp [Quiet]
  · simp [Quiet, Reg.written]

theorem scEnd_effect {c : Cmd} {s : State} (hst : s.st = .sc11) (hc : s.cur = some (.sendCommand c)) :
    HasEffect i s (scEnd c s) := by
  unfold scEnd
  split
  · exact (endsIn_next ..).2 (.invalidate c hst hc (by simp [Quiet]))
  · split
    · split
      · simp
      · exact (endsIn_next ..).2 (.release _ hst ‹_› (by simp [Quiet]))
    · exact (endsIn_next ..).2 (.quiet (by simp [Quiet]))

theorem sendCommandStep_effect {c : Cmd} {s : State} (hc : s.cur = some (.sendCommand c)) :
    HasEffect i s (sendCommandStep c s) := by
  unfold sendCommandStep
  split
  · exact (endsIn_next ..).2 (.quiet (scIdle_quiet s))
  · refine (endsIn_next ..).2 (.quiet ?_)
    unfold scMap
    split <;> simp [Quiet]
  · exact (endsIn_next ..).2 (.quiet (by simp [Quiet, scTimeout, Reg.written]))
  · exact scData_effect c ‹_›
  · refine (endsIn_next ..).2 (.quiet ?_)
    unfold scIssue
    split <;> simp [Quiet, Reg.written]
  · exact (endsIn_next ..).2 (.quiet (scCmdPoll_quiet s))
  · exact (endsIn_next ..).2 (respExtractStep_effect _ ‹_› fun _ _ h => h.goTo _ _)
  · exact (endsIn_next ..).2 (.quiet (scTransPoll_quiet c s))
  · exact (endsIn_next ..).2 (.quiet (errDecodeStep_effect (fun _ _ h => h.goTo _ _) s))
  · refine (endsIn_next ..).2 (.quiet ?_)
    unfold scCleanup
    split <;> simp [Quiet]
  · exact scEnd_effect ‹_› hc
  · exact softResetStep_effect s
  · exact softResetStep_effect s
  · exact buildTableStep_effect s

/-! #### INIT and the configuration operations -/

theorem setBusWidthStep_effect (s : State) : HasEffect i s (setBusWidthStep s) := by
  unfold setBusWidthStep
  split
  · refine (endsIn_next ..).2 (.quiet ?_)
    unfold bwCode
    split <;> simp [Quiet]
  · refine (endsIn_next ..).2 (.quiet ?_)
    unfold bwWrite
    split <;> simp [Quiet, Reg.isRead, Reg.written]
  · simp

theorem modeClockOff_quiet (here after : Phase) (s : State) : Quiet s (modeClockOff here after s) := by
  unfold modeClockOff
  split <;> simp [Quiet, Reg.isRead, Reg.written]

theorem modeSelect_quiet (here after : Phase) (bit : Half) (s : State) : Quiet s (modeSelect here after bit s) := by
  unfold modeSelect
  split <;> simp [Quiet, Reg.isRead, Reg.written]

theorem modeClockOn_effect (here : Phase) (s : State) : HasEffect i s (modeClockOn here s) := by
  unfold modeClockOn
  split
  · split
    · simp
    · exact (endsIn_next ..).2 (.quiet (by simp [Quiet]))
  · exact (endsIn_next ..).2 (.quiet (by simp [Quiet]))

theorem setSdrModeStep_effect (s : State) : HasEffect i s (setSdrModeStep s) := by
  unfold setSdrModeStep
  split
  · exact (endsIn_next ..).2 (.quiet (modeClockOff_quiet _ _ s))
  · exact (endsIn_next ..).2 (.quiet (modeSelect_quiet _ _ _ s))
  · exact modeClockOn_effect .sm3 s
  · exact clkSupplyStep_effect s

theorem setDdrModeStep_effect (s : State) : HasEffect i s (setDdrModeStep s) := by
  unfold setDdrModeStep
  split
  · exact (endsIn_next ..).2 (.quiet (modeClockOff_quiet _ _ s))
  · exact (endsIn_next ..).2 (.quiet (modeSelect_quiet _ _ _ s))
  · exact modeClockOn_effect .dm3 s
  · exact clkSupplyStep_effect s

theorem inPower_effect (s : State) : HasEffect i s (inPower s) := by
  unfold inPower
  split
  · simp
  · refine (endsIn_next ..).2 (.quiet ?_)
    split <;> simp [Quiet, Reg.written]

theorem inEnables_quiet (s : State) : Quiet s (inEnables s) := by
  unfold inEnables
  split <;> simp [Quiet, Reg.written]

theorem initStep_effect (s : State) : HasEffect i s (initStep s) := by
  unfold initStep
  split
  · exact (endsIn_next ..).2 (.quiet (by simp [Quiet, inReset]))
  · rename_i hst
    refine (endsIn_next ..).2 ?_
    unfold inCaps
    split
    · exact .quiet (by simp [Quiet, Reg.isRead])
    · exact .caps (readValue .caps2 s) hst (by simp) (by simp [Quiet, Reg.isRead])
  · exact (endsIn_next ..).2 (.event (.inl ‹_›) (by simp [Quiet]))
  · exact (endsIn_next ..).2 (.quiet (by simp [Quiet]))
  · exact (endsIn_next ..).2 (.quiet (by simp [Quiet]))
  · exact inPower_effect s
  · refine (endsIn_next ..).2 ?_
    unfold inWait
    split
    · exact .event (.inr ‹_›) (by simp [Quiet])
    · exact .quiet (.refl s)
  · exact (endsIn_next ..).2 (.quiet (by simp [Quiet]))
  · exact (endsIn_next ..).2 (.quiet (by simp [Quiet, Reg.written]))
  · exact (endsIn_next ..).2 (.quiet (inEnables_quiet s))
  · exact (endsIn_next ..).2 (.quiet (by simp [Quiet]))
  · exact setBusWidthStep_effect s
  · exact setBusWidthStep_effect s
  · exact softResetStep_effect s

/-! #### Instructions -/

theorem accept_effect {p home : Phase} {w : Work} {s : State} (hc : s.cur = none) :
    HasEffect i s (accept i p home w s) := (endsIn_next ..).2 (.accepted hc (by simp [Quiet]))

/-- A request does what its acceptance and its events do. -/
theorem runOp_effect {start next : State → Result} {s : State} (hstart : s.cur = none → HasEffect i s (start s))
    (hnext : s.cur = some i → HasEffect i s (next s)) : HasEffect i s (runOp i start next s) :=
  runOp_endsIn (fun _ _ => .quiet (.refl s)) (fun hc _ => hstart hc) hnext

/-- A hardware-side word of the caller context is the write of a writable register. -/
theorem callerEvent_effect {r : Reg} (v : Word) (s : State) (hr : r.written = true) :
    HasEffect i s (callerEvent i (regWrite r v) s) := by
  unfold callerEvent
  split
  · simp
  · refine (endsIn_next ..).2 (.quiet ?_)
    split <;> simp [Quiet, hr]

theorem exec_effect (i : Instr) (s : State) : HasEffect i s (exec i s) := by
  cases i with
  | init =>
    rw [exec, execInit]
    exact runOp_effect accept_effect fun _ => initStep_effect s
  | sendCommand c =>
    rw [exec, execSendCommand]
    exact runOp_effect accept_effect fun hc => sendCommandStep_effect hc
  | clkSupply f =>
    rw [exec, execClkSupply]
    refine runOp_effect (fun hc => ?_) fun _ => clkSupplyStep_effect s
    split
    · simp
    · exact accept_effect hc
  | setBusWidth w =>
    rw [exec, execSetBusWidth]
    exact runOp_effect accept_effect fun _ => setBusWidthStep_effect s
  | setSdrMode =>
    rw [exec, execSetSdrMode]
    refine runOp_effect (fun hc => ?_) fun _ => setSdrModeStep_effect s
    split
    · simp
    · split
      · simp
      · exact accept_effect hc
  | setDdrMode =>
    rw [exec, execSetDdrMode]
    refine runOp_effect (fun hc => ?_) fun _ => setDdrModeStep_effect s
    split
    · simp
    · split
      · simp
      · exact accept_effect hc
  | modeEnable g =>
    rw [exec, execModeEnable]
    refine runOp_effect accept_effect fun _ => ?_
    split
    · exact (endsIn_next ..).2 (.quiet (by simp [Quiet, meWrite]))
    · simp
  | reserved7 => exact endsIn_refused _ _
  | reserved14 => exact endsIn_refused _ _
  | reserved15 => exact endsIn_refused _ _
  | changeFrequency f =>
    rw [exec, execChangeFrequency]
    refine runOp_effect (fun hc => ?_) fun _ => changeFrequencyStep_effect f s
    split
    · simp
    · exact accept_effect hc
  | buildTable a n =>
    rw [exec, execBuildTable]
    exact runOp_effect accept_effect fun _ => buildTableStep_effect s
  | softReset m =>
    rw [exec, execSoftReset]
    exact runOp_effect accept_effect fun _ => softResetStep_effect s
  | respExtract rt =>
    rw [exec, execRespExtract]
    refine runOp_effect accept_effect fun _ => ?_
    split
    · exact (endsIn_next ..).2 (respExtractStep_effect rt ‹_› fun _ _ h => h.leave)
    · simp
  | errDecode =>
    rw [exec, execErrDecode]
    refine runOp_effect accept_effect fun _ => ?_
    split
    · exact (endsIn_next ..).2 (.quiet (errDecodeStep_effect (fun _ _ h => h.edHandOver) s))
    · simp
  | pwrIrq => exact (endsIn_next ..).2 (.handler rfl)
  | wordCmd i t p r =>
    rw [exec, execWordCmd]
    exact callerEvent_effect _ s rfl
  | wordTransmode m d a c =>
    rw [exec, execWordTransmode]
    exact callerEvent_effect _ s rfl
  | wordClk l h =>
    rw [exec, execWordClk]
    exact callerEvent_effect _ s rfl
  | wordSwReset d c a =>
    rw [exec, execWordSwReset]
    exact callerEvent_effect _ s rfl
  | wordPwrAck i b => exact (endsIn_next ..).2 (.quiet (by simp [Quiet]))
  | wordStsClear t c =>
    rw [exec, execWordStsClear]
    exact callerEvent_effect _ s rfl
  | adma2Entry a n e =>
    rw [exec, execAdma2Entry]
    refine runOp_effect (fun hc => ?_) fun _ => entryStep_effect a n e s
    split
    · simp
    · exact accept_effect hc

end Sys2Proof.Machine
end

section
/-! PROOFS. The statements of the family 10_state.md, second part: the outside's moves, what each field owes to an
effect, and the frame statements. -/

namespace Sys2Proof.Machine

/-! ### The moves of the outside -/

theorem step_outside {s t : State} {m : Move} {r : List Turn} (hs : s.env.sched = .outside m :: r)
    (h : step s = .next t) : applyMove m { s with env := { s.env with sched := r } } = .next t := by
  simpa [step, dropTurn, hs] using h

/-- Settles O7, move by move: what each does is the law of the one store or copy it makes. -/
theorem outsideMovesFrame : Obligations.OutsideMovesFrame := by
  unfold Obligations.OutsideMovesFrame
  intro s t m r hs h
  have hm := step_outside hs h
  cases m with
  | offer o =>
    obtain ⟨_, h⟩ | ⟨_, h⟩ | ⟨w, _, _, _, _, _, h⟩ := offerWord_cases o { s with env := { s.env with sched := r } } <;>
      rw [applyMove, h] at hm <;> cases hm <;> simp
  | raiseLine => cases hm; simp
  | setSlots q => cases hm; simp
  | deviceWrite a b =>
    cases hm
    simp +contextual [read_write_ne]
  | cpuWrite a b =>
    cases hm
    simp +contextual [read_write_ne, mem_addrAdd]
    tauto
  | evict a =>
    cases hm
    simp +contextual [read_copyByte, mem_addrDrop]
    omega
  | refill a =>
    by_cases hd : a.toNat ∈ s.dirty
    · simp only [applyMove, hd, if_true] at hm
      cases hm
      simp
    · simp only [applyMove, hd, if_false] at hm
      cases hm
      simp +contextual [read_copyByte, hd]
  | endTransaction => cases hm; simp

/-- What no move of the outside touches. -/
theorem step_outside_keeps {s t : State} {m : Move} {r : List Turn} (hs : s.env.sched = .outside m :: r)
    (h : step s = .next t) :
    t.cfg = s.cfg ∧ t.st = s.st ∧ t.pos = s.pos ∧ t.ret = s.ret ∧ t.home = s.home ∧ t.cur = s.cur ∧ t.work = s.work ∧
    t.h = s.h ∧ t.ev = s.ev ∧ t.ctl = s.ctl ∧ t.live = s.live ∧ t.tableInFlight = s.tableInFlight ∧
    t.trace = s.trace := by
  obtain ⟨ht, -⟩ := outsideMovesFrame s t m r hs h
  rw [ht]
  and_intros <;> rfl

/-- What a step is, as far as its effect goes: a move of the outside, or an effect of an instruction, from a state that
differs in `env` and in the offer alone. -/
theorem step_effect {s t : State} (h : step s = .next t) :
    (∃ m r, s.env.sched = .outside m :: r) ∨ ∃ i e o, Effect i { s with env := e, offer := o } t := by
  obtain ⟨m, r, hs, _⟩ | ⟨e, h'⟩ | ⟨e, h'⟩ | ⟨e, h'⟩ := step_cases s
  · exact .inl ⟨m, r, hs⟩
  · refine .inr ⟨.pwrIrq, e, s.offer, ?_⟩
    rw [h'] at h
    cases h
    exact .quiet (.refl _)
  · refine .inr ⟨.pwrIrq, e, s.offer, ?_⟩
    rw [h'] at h
    cases h
    exact .handler rfl
  · rw [h'] at h
    obtain ⟨i, _, hi⟩ | ⟨_, hi⟩ | ⟨_, hi⟩ | ⟨o, i, _, _, _, _, hi⟩ := callerStep_cases { s with env := e }
    · exact .inr ⟨i, e, s.offer, exec_effect i _ t (hi ▸ h)⟩
    · rw [hi] at h
      cases h
      exact .inr ⟨.pwrIrq, e, s.offer, .quiet (.refl _)⟩
    · rw [hi] at h
      cases h
    · exact .inr ⟨i, e, none, exec_effect i _ t (hi ▸ h)⟩

/-! ### What each field owes to an effect -/

@[simp] theorem entryWrite_fields (f : Nat) (tb : Word) (i : Nat) (addr : Word) (len attr : Half) (s : State) :
    (entryWrite f tb i addr len attr s).cfg = s.cfg ∧ (entryWrite f tb i addr len attr s).st = s.st ∧
    (entryWrite f tb i addr len attr s).pos = s.pos ∧ (entryWrite f tb i addr len attr s).ret = s.ret ∧
    (entryWrite f tb i addr len attr s).home = s.home ∧ (entryWrite f tb i addr len attr s).cur = s.cur ∧
    (entryWrite f tb i addr len attr s).work = s.work ∧ (entryWrite f tb i addr len attr s).h = s.h ∧
    (entryWrite f tb i addr len attr s).slots = s.slots ∧ (entryWrite f tb i addr len attr s).ev = s.ev ∧
    (entryWrite f tb i addr len attr s).ctl = s.ctl ∧ (entryWrite f tb i addr len attr s).dev = s.dev ∧
    (entryWrite f tb i addr len attr s).live = s.live ∧ (entryWrite f tb i addr len attr s).offer = s.offer ∧
    (entryWrite f tb i addr len attr s).tableInFlight = s.tableInFlight := by
  obtain ⟨fo, n, v, h, -⟩ := entryWrite_cases f tb i addr len attr s
  simp [h]

/-- An effect adds allowed records alone. -/
theorem Effect.allows {i : Instr} {s t : State} (h : Effect i s t) : Allows s.trace t.trace := by
  cases h with
  | quiet h | accepted _ h | rate _ h | caps _ _ _ h | slots _ _ h | event _ h | handToDevice _ _ _ h =>
    obtain ⟨-, -, -, -, -, -, -, -, -, -, -, htrace⟩ := h
    exact htrace
  | handler h => exact h ▸ takePwrIrq_allows s
  | alloc _ _ _ _ _ h | entry _ _ _ _ _ _ _ h | clean _ _ _ h | invalidate _ _ _ h | release _ _ _ h =>
    obtain ⟨-, -, -, -, -, -, -, -, -, -, -, htrace⟩ := h
    exact (by simp : Allows s.trace _).trans htrace

theorem Quiet.host {s t : State} (h : Quiet s t) : t.h = s.h := by
  obtain ⟨-, hh, -⟩ := h
  exact hh

theorem Effect.cfg {i : Instr} {s t : State} (h : Effect i s t) : t.cfg = s.cfg := by cases h <;> simp_all [Quiet]

theorem Effect.h {i : Instr} {s t : State} (h : Effect i s t) :
    t.h = s.h ∨ (s.st = .cs6 ∧ t.h = { s.h with curClkRate := some s.work.achieved }) ∨
    (s.st = .in2 ∧ ∃ c2, t.trace = .caller (.regRead .caps2 c2) :: s.trace ∧
      t.h = capRecord s.cfg.bits s.work.tmp c2) := by
  cases h with
  | rate hst h => exact .inr (.inl ⟨hst, h.host⟩)
  | caps c2 hst htrace h => exact .inr (.inr ⟨hst, c2, htrace, h.host⟩)
  | _ => exact .inl (by simp_all [Quiet])

theorem Effect.slots_eq {i : Instr} {s t : State} (h : Effect i s t) : t.slots = s.slots ∨ s.st = .sc7 := by
  cases h with
  | slots _ hst _ => exact .inr hst
  | _ => exact .inl (by simp_all [Quiet])

theorem Effect.ev {i : Instr} {s t : State} (h : Effect i s t) :
    t.ev = s.ev ∨ ((s.st = .in3 ∨ s.st = .in7) ∧ t.ev = false) ∨
    (t.ev = true ∧ ∃ m a, t.trace =
      .irq .eventSignal :: .irq (.pwrWrite .ctl a) :: .irq (.pwrRead .mask m) :: s.trace) := by
  cases h with
  | event hst h => exact .inr (.inl ⟨hst, by simp_all [Quiet]⟩)
  | handler h => exact .inr (.inr ⟨by simp [h], _, _, by rw [h]; rfl⟩)
  | _ => exact .inl (by simp_all [Quiet])

theorem Effect.tableInFlight {i : Instr} {s t : State} (h : Effect i s t) :
    t.tableInFlight = s.tableInFlight ∨
    (s.st = .sc4 ∧ t.tableInFlight = s.work.table.map (fun a => (a, 8 * s.work.count))) ∨
    (s.st = .sc11 ∧ t.tableInFlight = none) := by
  cases h with
  | handToDevice a hst ha h => exact .inr (.inl ⟨hst, by simp_all [Quiet]⟩)
  | release tb hst _ h => exact .inr (.inr ⟨hst, by simp_all [Quiet]⟩)
  | _ => exact .inl (by simp_all [Quiet])

/-- The allocator's block is in front of the live ones, where it answers one. -/
theorem alloc_live (n : Nat) (b : Word) (l : Nat) (z : Bool) (s : State) :
    (alloc n b l z s).live = s.live ∨ ∃ a, (alloc n b l z s).live = (a, n) :: s.live := by
  cases h : allocAnswer n b l s with
  | none => exact .inl (by simp [alloc, h])
  | some a => exact .inr ⟨a, by simp [alloc, h]⟩

theorem Effect.live {i : Instr} {s t : State} (h : Effect i s t) :
    t.live = s.live ∨ (s.st = .bt1 ∧ ∃ b, t.live = b :: s.live) ∨
    (s.st = .sc11 ∧ ∃ tb, s.work.table = some tb ∧ t.live = s.live.filter (fun b => b.1 ≠ tb)) := by
  cases h with
  | alloc n b l z hst h =>
    obtain ⟨-, -, -, -, -, -, -, hlive, -⟩ := h
    obtain ha | ⟨a, ha⟩ := alloc_live n b l z s
    · exact .inl (hlive.trans ha)
    · exact .inr (.inl ⟨hst, _, hlive.trans ha⟩)
  | release tb hst htb h => exact .inr (.inr ⟨hst, tb, htb, by simp_all [Quiet]⟩)
  | _ => exact .inl (by simp_all [Quiet])

/-! ### Where memory is written -/

theorem read_writeLE_outside (m : Memory) (a : Word) (n : Nat) (v : Word) (x : Nat)
    (h : ∀ k < n, x ≠ (a + BitVec.ofNat 32 k).toNat) : (m.writeLE a n v).read x = m.read x := by
  induction n generalizing m a v with
  | zero => rfl
  | succ n ih =>
    rw [Memory.writeLE, ih, read_write_ne _ _ (by simpa using h 0 (by omega))]
    intro k hk
    have := h (k + 1) (by omega)
    rwa [Nat.add_comm, BitVec.ofNat_add, ← BitVec.add_assoc] at this

theorem fillZero_eq_writeLE (m : Memory) (a : Word) (n : Nat) : m.fillZero a n = m.writeLE a n 0 := by
  induction n generalizing m a with
  | zero => rfl
  | succ n ih => simp [Memory.fillZero, Memory.writeLE, ih]

/-- A block the allocator answers ends inside 2^32 (42_descriptor_builder.md R224). -/
theorem allocAnswer_fits {n : Nat} {b : Word} {l : Nat} {s : State} {a : Word} (h : allocAnswer n b l s = some a) :
    a.toNat + n ≤ 2 ^ 32 := by
  unfold allocAnswer at h
  split at h
  · cases h
  · split at h
    · rename_i hok
      cases h
      simp only [allocOk, Bool.and_eq_true, decide_eq_true_eq] at hok
      obtain ⟨⟨⟨-, hfit⟩, -⟩, -⟩ := hok
      exact hfit
    · cases h

/-- The allocator writes memory in the block it answers alone. -/
theorem alloc_mem (n : Nat) (b : Word) (l : Nat) (z : Bool) (s : State) (x : Nat)
    (hx : (alloc n b l z s).mem.read x ≠ s.mem.read x) :
    ∃ a : Word, (alloc n b l z s).live = (a, n) :: s.live ∧ a.toNat ≤ x ∧ x < a.toNat + n := by
  cases h : allocAnswer n b l s with
  | none => exact absurd (by simp [alloc, h]) hx
  | some a =>
    refine ⟨a, by simp [alloc, h], ?_⟩
    by_contra hout
    have hfit := allocAnswer_fits h
    have hread := read_writeLE_outside s.mem a n 0 x fun k hk => by
      simp only [BitVec.toNat_add, BitVec.toNat_ofNat]
      omega
    cases z <;> simp_all [alloc, fillZero_eq_writeLE]

/-- The place of byte `j` of the field at `fo` in the eight bytes of its entry. -/
theorem entryAddr_add (t : Word) (i fo j : Nat) :
    entryAddr t i fo + BitVec.ofNat 32 j = entryAddr t i 0 + BitVec.ofNat 32 (fo + j) := by
  simp only [entryAddr, BitVec.add_assoc, ← BitVec.ofNat_add, Nat.add_zero, Nat.add_assoc]

/-- `WriteEntry` writes memory in the entry's eight bytes alone. -/
theorem entryWrite_mem (f : Nat) (tb : Word) (i : Nat) (addr : Word) (len attr : Half) (s : State) (x : Nat)
    (hx : (entryWrite f tb i addr len attr s).mem.read x ≠ s.mem.read x) (hl : s.cfg.entry.Tiles) :
    ∃ k, k < 8 ∧ x = (entryAddr tb i 0 + BitVec.ofNat 32 k).toNat := by
  obtain ⟨fo, n, v, h, hfit⟩ := entryWrite_cases f tb i addr len attr s
  have hn := hfit hl
  by_contra hout
  refine hx ?_
  simp only [h, memWrite_fields]
  refine read_writeLE_outside _ _ _ _ _ fun j hj heq => hout ⟨fo + j, by omega, ?_⟩
  rw [heq, entryAddr_add]

theorem Effect.mem {i : Instr} {s t : State} (h : Effect i s t) {x : Nat} (hx : t.mem.read x ≠ s.mem.read x) :
    (s.st = .bt1 ∧ ∃ b : Word × Nat, t.live = b :: s.live ∧ b.1.toNat ≤ x ∧ x < b.1.toNat + b.2) ∨
    (s.st = .bt2 ∧ ∃ tb, s.work.table = some tb ∧
      (s.cfg.entry.Tiles → ∃ k, k < 8 ∧ x = (entryAddr tb s.work.idx 0 + BitVec.ofNat 32 k).toNat)) ∨
    (s.st = .sc11 ∧ ∃ c, s.cur = some (.sendCommand c) ∧ c.buf.toNat ≤ x ∧ x < c.buf.toNat + s.work.len.toNat) := by
  cases h with
  | alloc n b l z hst h =>
    obtain ⟨-, -, -, -, hmem, -, -, hlive, -⟩ := h
    obtain ⟨a, ha, hlo, hhi⟩ := alloc_mem n b l z s x (hmem ▸ hx)
    exact .inl ⟨hst, (a, n), hlive.trans ha, hlo, hhi⟩
  | entry f tb addr len attr hst htb h =>
    obtain ⟨-, -, -, -, hmem, -⟩ := h
    exact .inr (.inl ⟨hst, tb, htb, entryWrite_mem f tb _ addr len attr s x (hmem ▸ hx)⟩)
  | invalidate c hst hc h =>
    obtain ⟨-, -, -, -, hmem, -⟩ := h
    refine .inr (.inr ⟨hst, c, hc, ?_⟩)
    by_contra hout
    exact hx (by simp [hmem, read_splice, hout])
  | _ => exact absurd (by simp_all [Quiet]) hx

theorem Effect.dev {i : Instr} {s t : State} (h : Effect i s t) {x : Nat} (hx : t.dev.read x ≠ s.dev.read x) :
    s.st = .bt3 ∧ ∃ tb, s.work.table = some tb ∧ tb.toNat ≤ x ∧ x < tb.toNat + 8 * s.work.count := by
  cases h with
  | clean tb hst htb h =>
    obtain ⟨-, -, -, -, -, hdev, -⟩ := h
    refine ⟨hst, tb, htb, ?_⟩
    by_contra hout
    exact hx (by simp [hdev, read_splice, hout])
  | _ => exact absurd (by simp_all [Quiet]) hx

/-- Settles O52: every way an effect may go adds allowed records alone, and the outside records nothing. -/
theorem onlyAllowedEvents : Obligations.OnlyAllowedEvents := by
  unfold Obligations.OnlyAllowedEvents
  intro s t e h
  have hstep : Allows s.trace t.trace := by
    obtain ⟨m, r, hs⟩ | ⟨_, _, _, he⟩ := step_effect h
    · obtain ⟨-, -, -, -, -, -, -, -, -, -, -, -, htrace⟩ := step_outside_keeps hs h
      simp [htrace]
    · exact he.allows
  exact ⟨hstep.mem, hstep.mem⟩

/-- Settles O54: of the effects only CS.6's and IN.2's touch H. -/
theorem recordWrittenOnlyBy : Obligations.RecordWrittenOnlyBy := by
  unfold Obligations.RecordWrittenOnlyBy
  intro s t h hne
  obtain ⟨m, r, hs⟩ | ⟨_, _, _, he⟩ := step_effect h
  · obtain ⟨-, -, -, -, -, -, -, hh, -⟩ := step_outside_keeps hs h
    exact absurd hh hne
  · exact he.h.resolve_left hne

/-- Settles O55, field by field: the outside's moves by their frame (O7), every instruction by its effect. -/
theorem stateWrittenOnlyWhere : Obligations.StateWrittenOnlyWhere := by
  unfold Obligations.StateWrittenOnlyWhere
  intro s t h
  obtain ⟨m, r, hs⟩ | ⟨_, _, _, he⟩ := step_effect h
  · obtain ⟨hcfg, -, -, -, -, -, -, -, hev, -, hlive, htable, -⟩ := step_outside_keeps hs h
    obtain ⟨-, -, hslots, -, -, -, -, hmem, hdev, -⟩ := outsideMovesFrame s t m r hs h
    refine ⟨fun hne => .inr ?_, absurd hev, absurd htable, hcfg, fun a hne => .inl ⟨m, r, hs, ?_⟩,
      fun a hne => .inl ⟨m, r, hs, ?_⟩, absurd hlive⟩
    · by_contra hout
      exact hne (hslots fun q hm => hout ⟨q, r, hm ▸ hs⟩)
    · by_contra hout
      exact hne (hmem a (fun x b hm ha => hout (.inl ⟨x, b, hm, ha⟩)) fun x hm ha => hout (.inr ⟨x, hm, ha⟩))
    · by_contra hout
      exact hne (hdev a (fun x b hm ha => hout (.inl ⟨x, b, hm, ha⟩)) fun x hm ha => hout (.inr ⟨x, hm, ha⟩))
  · exact ⟨fun hne => .inl (he.slots_eq.resolve_left hne), he.ev.resolve_left, he.tableInFlight.resolve_left, he.cfg,
      fun a hne => .inr (he.mem hne), fun a hne => .inr (he.dev hne), he.live.resolve_left⟩

end Sys2Proof.Machine
end

section
/-! PROOFS. The statements of the family 10_state.md, third part: the running operation keeps the invariant and goes on.

`OpInv` is `Inv` without its memory part. Each phase keeps it by one of five rules: nothing it speaks of moves (`same`),
the operation goes on (`goesOn`: to a phase beside, into a nested sequence, or back from one), it ends (`ends`), it
aborts (`aborts`), or a request is accepted (`accepted`). -/

namespace Sys2Proof.Machine

/-! #### The rules -/

/-- The parts of `Inv` that speak of the running operation. -/
structure OpInv (s : State) : Prop where
  control : ControlInv s
  record  : RecordInv s
  table   : TableInv s
  rate    : RateInv s

/-- The phases in which CLK_SUPPLY has read the base rate. -/
def knowsBase (p : Phase) : Bool := p == .cs2 || p == .cs3 || p == .cs4 || p == .cs5 || p == .cs6

/-- The phases of INIT that have the voltage of the record still to read. -/
def needsVoltage (p : Phase) : Bool := p == .in3 || p == .in4 || p == .in5 || p == .in6

/-- The places of SEND_COMMAND that only a data command enters, the table's own aside. -/
def inTransfer (p : Phase) (q : Nat) : Bool := isBtPhase p || isSrPhase p || (p == .sc4 && q != 0)

/-- `t` has of `s` what an operation keeps from phase to phase: itself, H, the live blocks, and its table. -/
def Held (s t : State) : Prop :=
  t.cur = s.cur ∧ t.home = s.home ∧ t.h = s.h ∧ t.cfg = s.cfg ∧ t.live = s.live ∧ t.tableInFlight = s.tableInFlight ∧
  t.work.table = s.work.table ∧ t.work.count = s.work.count

/-- From `s` to `t` operation `i` goes to one of its phases, with the return phase that phase asks for, and enters no
phase whose part of the invariant it does not bring along. -/
def Onward (i : Instr) (s t : State) : Prop :=
  phasesOf i t.st = true ∧ t.ret = returnOf i t.st ∧ (needsVoltage t.st = true → needsVoltage s.st = true) ∧
  (t.st = .cf3 → t.pos ≠ 0 → t.work.inner.isSome = true) ∧ hasTable t = hasTable s ∧
  (∀ c, i = .sendCommand c → inTransfer t.st t.pos = true → c.dataPresent = true) ∧ knowsBase t.st = false

theorem OpInv.running {s : State} {i : Instr} (h : OpInv s) (hc : s.cur = some i) :
    phasesOf i s.st = true ∧ s.ret = returnOf i s.st := by
  obtain ⟨_, hcontrol⟩ := h.control
  rwa [hc] at hcontrol

theorem OpInv.homes {s : State} (h : OpInv s) : s.home = .uninit ∨ s.home = .idle := h.control.1

/-- RateInv where CLK_SUPPLY holds no rate. -/
theorem RateInv.of_not_knowsBase {s t : State} (h : RateInv s) (hh : t.h = s.h) (hcfg : t.cfg = s.cfg)
    (hst : knowsBase t.st = false) : RateInv t := by
  obtain ⟨hcur, -⟩ := h
  refine ⟨hh ▸ hcfg ▸ hcur, ?_, ?_, ?_⟩ <;> intro hp <;> simp_all [knowsBase]

theorem OpInv.goesOn {s t : State} {i : Instr} (h : OpInv s) (hc : s.cur = some i) (hk : Held s t)
    (ho : Onward i s t) : OpInv t := by
  obtain ⟨hcur, hhome, hh, hcfg, hlive, hflight, htable, hcount⟩ := hk
  obtain ⟨hphase, hret, hvolt, hinner, hhas, hdata, hbase⟩ := ho
  have hc' : t.cur = some i := hcur.trans hc
  refine ⟨⟨hhome ▸ h.homes, by rw [hc']; exact ⟨hphase, hret⟩⟩, ?_, ?_, h.rate.of_not_knowsBase hh hcfg hbase⟩
  · obtain ⟨hr1, hr2, hr3, hr4⟩ := h.record
    rw [hc] at hr1 hr2 hr3 hr4
    simp only [RecordInv, hc', hh]
    refine ⟨fun hi hp => hr1 hi ?_, hr2, fun f hi => ⟨(hr3 f hi).1, hinner⟩, hr4⟩
    simpa [needsVoltage, or_assoc] using hvolt (by simpa [needsVoltage, or_assoc] using hp)
  · obtain ⟨ht1, ht2, -, ht4⟩ := h.table
    have hna : s.st ≠ .aborted := by
      intro ha
      have := (h.running hc).1
      rw [ha] at this
      cases i <;> cases this
    simp only [TableInv, hhas, htable, hcount, hlive, hflight, hc', hc] at ht1 ht2 ht4 ⊢
    exact ⟨ht1, ht2, fun c hi hp => hdata c (Option.some.inj hi) (by simpa [inTransfer] using hp), fun _ => ht4 hna⟩

/-- `t` has of `s` everything the invariant of the operation speaks of. -/
def Same (s t : State) : Prop :=
  Held s t ∧ t.st = s.st ∧ t.pos = s.pos ∧ t.ret = s.ret ∧ t.work.base = s.work.base ∧ t.work.freq = s.work.freq ∧
  t.work.achieved = s.work.achieved ∧ t.work.inner = s.work.inner

theorem Same.held {s t : State} (h : Same s t) : Held s t := h.1

theorem Same.ret {s t : State} (h : Same s t) : t.ret = s.ret := by
  obtain ⟨-, -, -, hret, -⟩ := h
  exact hret

theorem OpInv.same {s t : State} (h : OpInv s) (hs : Same s t) : OpInv t := by
  obtain ⟨⟨hcur, hhome, hh, hcfg, hlive, hflight, htable, hcount⟩, hst, hpos, hret, hbase, hfreq, hach, hinner⟩ := hs
  have hhas : hasTable t = hasTable s := by simp [hasTable, hcur, hst, hpos]
  obtain ⟨hcontrol, hrecord, htab, hrate⟩ := h
  constructor
  · simpa only [ControlInv, hhome, hcur, hst, hret] using hcontrol
  · simpa only [RecordInv, hcur, hst, hpos, hh, hinner] using hrecord
  · simpa only [TableInv, hhas, hcur, hst, hpos, hlive, hflight, htable, hcount] using htab
  · simpa only [RateInv, hh, hcfg, hst, hbase, hfreq, hach] using hrate

/-- The rate recorded in H is one the divider gives. -/
def RateRecorded (s : State) : Prop :=
  ∀ f, s.h.curClkRate = some f → ∃ b, s.h.baseClkRate = some b ∧ Programmable s.cfg b f

theorem hasTable_of_none {s : State} (hc : s.cur = none) : hasTable s = false := by simp [hasTable, hc]

/-- Between operations, with no table in the device's hands, the rate recorded is all there is to keep. -/
theorem OpInv.of_none {s : State} (hhome : s.home = .uninit ∨ s.home = .idle) (hc : s.cur = none) (hret : s.ret = none)
    (hst : s.st = .uninit ∨ s.st = .idle ∨ s.st = .aborted) (hflight : s.st ≠ .aborted → s.tableInFlight = none)
    (hrate : RateRecorded s) : OpInv s := by
  refine ⟨⟨hhome, by rw [hc]; exact ⟨hst, hret⟩⟩, by simp [RecordInv, hc], ?_, hrate, ?_, ?_, ?_⟩
  · simp only [TableInv, hasTable_of_none hc, hc]
    refine ⟨nofun, nofun, nofun, fun hna t n ht => ?_⟩
    rw [hflight hna] at ht
    cases ht
  all_goals intro hp; rcases hst with hst | hst | hst <;> simp_all

/-- An operation ends: its return goes to the port, whatever is recorded. -/
theorem OpInv.ends {s u : State} (h : OpInv s) (hhome : u.home = s.home) (hrate : RateRecorded u) (hret : u.ret = none)
    (hflight : u.tableInFlight = none) (tr : List Record) :
    OpInv { u with st := u.home, pos := 0, cur := none, work := Work.blank, trace := tr } :=
  .of_none (hhome ▸ h.homes) rfl hret ((hhome ▸ h.homes).imp_right .inl) (fun _ => hflight) hrate

/-- `raise FatalAbort`: ABORTED asks for nothing of a table (70_reset_and_hazards.md R402). -/
theorem OpInv.aborts {s u : State} (h : OpInv s) (hhome : u.home = s.home) (hh : u.h = s.h) (hcfg : u.cfg = s.cfg) :
    OpInv (fatalAbort u) := by
  refine .of_none (hhome ▸ h.homes) rfl rfl (.inr (.inr rfl)) (fun hna => absurd rfl hna) ?_
  obtain ⟨hcur, -⟩ := h.rate
  simpa [RateRecorded, hh, hcfg] using hcur

theorem phasesOf_aborted (i : Instr) : phasesOf i .aborted = false := by cases i <;> rfl

/-- A table in the device's hands is that of a running data command. -/
theorem OpInv.noFlight_outside {s : State} (h : OpInv s) (hna : s.st ≠ .aborted)
    (hc : hasTable s = true → ∀ c, s.cur ≠ some (.sendCommand c)) : s.tableInFlight = none := by
  obtain ⟨-, -, -, hflight⟩ := h.table
  by_contra hsome
  obtain ⟨⟨t, n⟩, ht⟩ := Option.ne_none_iff_exists'.1 hsome
  obtain ⟨hhas, -, -, c, hsend⟩ := hflight hna t n ht
  exact hc hhas c hsend

theorem OpInv.noFlight {s : State} (h : OpInv s) (hna : s.st ≠ .aborted) (hhas : hasTable s = false) :
    s.tableInFlight = none := h.noFlight_outside hna (by simp [hhas])

theorem OpInv.not_aborted {s : State} {i : Instr} (h : OpInv s) (hc : s.cur = some i) : s.st ≠ .aborted := by
  intro ha
  have := (h.running hc).1
  rw [ha, phasesOf_aborted] at this
  cases this

/-! #### What a running operation's phase keeps -/

/-- The turn answers a next state, and it meets the invariant of the operation. -/
def GoesOn (r : Result) : Prop := ∃ t, r = .next t ∧ OpInv t

@[simp] theorem goesOn_next (t : State) : GoesOn (.next t) ↔ OpInv t := by simp [GoesOn]

/-- Operations that never have a table. -/
def tableFree : Instr → Bool
  | .sendCommand _ | .buildTable _ _ | .adma2Entry _ _ _ => false
  | _ => true

theorem hasTable_tableFree {s : State} {i : Instr} (hc : s.cur = some i) (hi : tableFree i = true) :
    hasTable s = false := by
  cases i <;> simp_all [hasTable, tableFree]

theorem OpInv.rateRecorded {s : State} (h : OpInv s) : RateRecorded s := h.rate.1

/-- The one-deep return leads to a phase of the operation itself, at which nothing is nested. -/
theorem returnOf_returns {i : Instr} {p p' : Phase} {q : Nat} (h : returnOf i p = some (p', q)) :
    phasesOf i p' = true ∧ returnOf i p' = none ∧ needsVoltage p' = false ∧ knowsBase p' = false := by
  cases i with
  | init | sendCommand c | setSdrMode | setDdrMode | changeFrequency f =>
    simp only [returnOf] at h
    repeat' split at h
    all_goals cases h
    all_goals and_intros <;> rfl
  | _ => cases h

/-- `return k` in an operation that never has a table: to the port, or back from a nested sequence. -/
theorem OpInv.finishes {u : State} {i : Instr} (h : OpInv u) (hc : u.cur = some i) (hi : tableFree i = true)
    (k : Status) : OpInv (finish k u) := by
  have hhas := hasTable_tableFree hc hi
  cases hret : u.ret with
  | none =>
    rw [finish_port k hret]
    exact h.ends rfl h.rateRecorded hret (h.noFlight (h.not_aborted hc) hhas) _
  | some pq =>
    obtain ⟨p, q⟩ := pq
    rw [finish_nested k hret]
    obtain ⟨hphase, hnone, hvolt, hbase⟩ := returnOf_returns ((h.running hc).2.symm.trans hret)
    refine h.goesOn hc (by simp [Held]) ⟨hphase, hnone.symm, by simp [hvolt], by simp, ?_, ?_, hbase⟩
    · rw [hhas]
      exact hasTable_tableFree hc hi
    · rintro c rfl
      cases hi

/-! #### CLK_SUPPLY, alone and nested -/

/-- The six phases of CLK_SUPPLY go back to one place. -/
theorem returnOf_clock {i : Instr} {p : Phase} (hi : runsClock i = true) (hp : isCsPhase p = true) :
    phasesOf i p = true ∧ returnOf i p = returnOf i .cs1 := by
  cases i with
  | clkSupply f | changeFrequency f | setSdrMode | setDdrMode =>
    simp [phasesOf, returnOf, hp, show isCsPhase .cs1 = true from rfl]
  | _ => cases hi

theorem tableFree_of_runsClock {i : Instr} (hi : runsClock i = true) : tableFree i = true := by
  cases i with
  | clkSupply f | changeFrequency f | setSdrMode | setDdrMode => rfl
  | _ => cases hi

theorem RecordInv.baseRate {s : State} {i : Instr} (h : RecordInv s) (hc : s.cur = some i) (hi : runsClock i = true) :
    s.h.baseClkRate.isSome = true := by
  obtain ⟨-, hsupply, hchange, hmode⟩ := h
  cases i with
  | clkSupply f => exact hsupply f hc
  | changeFrequency f => exact (hchange f hc).1
  | setSdrMode => exact (hmode (.inl hc)).1
  | setDdrMode => exact (hmode (.inr hc)).1
  | _ => cases hi

theorem RecordInv.currentRate {s : State} {i : Instr} (h : RecordInv s) (hc : s.cur = some i)
    (hi : i = .setSdrMode ∨ i = .setDdrMode) : s.h.curClkRate.isSome = true := by
  obtain ⟨-, -, -, hmode⟩ := h
  exact (hmode (by rwa [hc, Option.some.injEq, Option.some.injEq])).2

theorem RecordInv.innerStatus {s : State} {f : Word} (h : RecordInv s) (hc : s.cur = some (.changeFrequency f))
    (hst : s.st = .cf3) (hpos : s.pos ≠ 0) : s.work.inner.isSome = true := by
  obtain ⟨-, -, hchange, -⟩ := h
  exact (hchange f hc).2 hst hpos

/-- TableInv asks of an operation that never has a table only that none is in the device's hands. -/
theorem TableInv.of_tableFree {s : State} {i : Instr} (hc : s.cur = some i) (hi : tableFree i = true)
    (hflight : s.tableInFlight = none) : TableInv s := by
  simp only [TableInv, hasTable_tableFree hc hi, hc, hflight]
  refine ⟨nofun, ?_, ?_, nofun⟩
  · rintro a n e hadma
    cases hadma
    cases hi
  · rintro c hsend
    cases hsend
    cases hi

/-- Inside CLK_SUPPLY, alone or nested, what is left to show is that the rate is kept. -/
theorem OpInv.clockOn {s t : State} {i : Instr} (h : OpInv s) (hc : s.cur = some i) (hi : runsClock i = true)
    (hp : isCsPhase s.st = true) (hk : Held s t) (hret : t.ret = s.ret) (hp' : isCsPhase t.st = true)
    (hrate : RateInv t) : OpInv t := by
  obtain ⟨hcur, hhome, hh, hcfg, hlive, hflight, htable, hcount⟩ := hk
  obtain ⟨-, hback⟩ := returnOf_clock hi hp
  obtain ⟨hphase, hback'⟩ := returnOf_clock hi hp'
  have hfree := tableFree_of_runsClock hi
  have hc' : t.cur = some i := hcur.trans hc
  have hnone : t.tableInFlight = none := hflight.trans (h.noFlight (h.not_aborted hc) (hasTable_tableFree hc hfree))
  refine ⟨⟨hhome ▸ h.homes, ?_⟩, ?_, .of_tableFree hc' hfree hnone, hrate⟩
  · rw [hc']
    exact ⟨hphase, by rw [hret, (h.running hc).2, hback, hback']⟩
  · obtain ⟨-, hr2, hr3, hr4⟩ := h.record
    rw [hc] at hr2 hr3 hr4
    simp only [RecordInv, hc', hh]
    refine ⟨?_, hr2, fun f hf => ⟨(hr3 f hf).1, fun hst => ?_⟩, hr4⟩
    · rintro hinit
      cases hinit
      cases hi
    · rw [hst] at hp'
      cases hp'

/-- The search of R193 finds an even divider up to MAX_DIV. -/
theorem divSearch_programmable {b f k d e : Nat} (h : divSearch b f k d = some e) :
    ∃ j < k, e = d + 2 * j := by
  induction k generalizing d with
  | zero => cases h
  | succ k ih =>
    unfold divSearch at h
    split at h
    · cases h
      exact ⟨0, by omega, rfl⟩
    · obtain ⟨j, hj, rfl⟩ := ih h
      exact ⟨j + 1, by omega, by omega⟩

theorem findDiv_programmable {c : Cfg} {b f : Word} {d : Nat} (h : findDiv b.toNat f.toNat c.maxDiv.toNat = some d) :
    Programmable c b (BitVec.ofNat 32 (b.toNat / d)) := by
  obtain ⟨j, hj, rfl⟩ := divSearch_programmable h
  refine .inr ⟨2 + 2 * j, by omega, by omega, by omega, ?_⟩
  have := Nat.div_le_self b.toNat (2 + 2 * j)
  have := b.isLt
  rw [BitVec.toNat_ofNat, Nat.mod_eq_of_lt (by omega)]

theorem csRange_goesOn {s : State} {i : Instr} (h : OpInv s) (hc : s.cur = some i) (hi : runsClock i = true)
    (hst : s.st = .cs1) : GoesOn (csRange s) := by
  have hp : isCsPhase s.st = true := by rw [hst]; rfl
  obtain ⟨b, hb⟩ := Option.isSome_iff_exists.1 (h.record.baseRate hc hi)
  unfold csRange
  rw [hb, goesOn_next]
  split
  · exact h.finishes hc (tableFree_of_runsClock hi) _
  · exact h.clockOn hc hi hp (by simp [Held]) rfl rfl ⟨h.rateRecorded, by simp [hb], by simp, by simp⟩

theorem csPassThrough_opInv {s : State} {i : Instr} (h : OpInv s) (hc : s.cur = some i) (hi : runsClock i = true)
    (hst : s.st = .cs2) : OpInv (csPassThrough s) := by
  have hp : isCsPhase s.st = true := by rw [hst]; rfl
  obtain ⟨hcur, hbase, -, -⟩ := h.rate
  have hb := hbase (.inl hst)
  unfold csPassThrough
  split
  · exact h.clockOn hc hi hp (by simp [Held]) rfl rfl ⟨hcur, by simp [hb], by simp, by simp⟩
  · exact h.clockOn hc hi hp (by simp [Held]) rfl rfl ⟨hcur, by simp [hb], fun _ he => absurd he ‹_›, by simp⟩

theorem csSearch_opInv {s : State} {i : Instr} (h : OpInv s) (hc : s.cur = some i) (hi : runsClock i = true)
    (hst : s.st = .cs3) : OpInv (csSearch s) := by
  have hp : isCsPhase s.st = true := by rw [hst]; rfl
  obtain ⟨hcur, hbase, hpass, -⟩ := h.rate
  have hb := hbase (.inr hst)
  unfold csSearch
  split
  · rename_i hfreq
    exact h.clockOn hc hi hp (by simp [Held]) rfl rfl
      ⟨hcur, by simp, by simp, fun _ => ⟨_, hb, .inl (hpass hst hfreq)⟩⟩
  · split
    · exact h.finishes hc (tableFree_of_runsClock hi) _
    · exact h.clockOn hc hi hp (by simp [Held]) rfl rfl
        ⟨hcur, by simp, by simp, fun _ => ⟨_, hb, findDiv_programmable ‹_›⟩⟩

theorem csSpin_opInv {s : State} {i : Instr} (h : OpInv s) (hc : s.cur = some i) (hi : runsClock i = true)
    (hst : s.st = .cs5) : OpInv (csSpin s) := by
  have hp : isCsPhase s.st = true := by rw [hst]; rfl
  obtain ⟨hcur, -, -, hach⟩ := h.rate
  have hb := hach (.inr (.inl hst))
  unfold csSpin
  split
  · exact h.aborts rfl rfl rfl
  · dsimp only
    split
    · exact h.clockOn hc hi hp (by simp [Held]) (by simp) rfl ⟨by simpa using hcur, by simp, by simp, by simpa using hb⟩
    · exact h.clockOn hc hi hp (by simp [Held]) (by simp) (by simpa using hp)
        ⟨by simpa using hcur, by simp [hst], by simp [hst], fun _ => by simpa using hb⟩

/-- CS.6 records a rate the divider gives (10_state.md R22). -/
theorem csRecord_opInv {s : State} {i : Instr} (h : OpInv s) (hc : s.cur = some i) (hi : runsClock i = true)
    (hst : s.st = .cs6) : OpInv (csRecord s) := by
  have hp : isCsPhase s.st = true := by rw [hst]; rfl
  obtain ⟨-, -, -, hach⟩ := h.rate
  obtain ⟨b, hb, hprog⟩ := hach (.inr (.inr hst))
  have hu : OpInv { s with h := { s.h with curClkRate := some s.work.achieved } } := by
    refine ⟨h.control, ?_, h.table, ?_⟩
    · obtain ⟨hr1, hr2, hr3, hr4⟩ := h.record
      exact ⟨hr1, hr2, hr3, fun hm => ⟨(hr4 hm).1, rfl⟩⟩
    · refine ⟨?_, by simp [hst], by simp [hst], fun _ => ⟨b, hb, hprog⟩⟩
      rintro f hf
      cases hf
      exact ⟨b, hb, hprog⟩
  exact hu.finishes hc (tableFree_of_runsClock hi) _

theorem clkSupplyStep_goesOn {s : State} {i : Instr} (h : OpInv s) (hc : s.cur = some i) (hi : runsClock i = true)
    (hp : isCsPhase s.st = true) : GoesOn (clkSupplyStep s) := by
  obtain ⟨hcur, -, -, hach⟩ := h.rate
  unfold clkSupplyStep
  split
  · exact csRange_goesOn h hc hi ‹_›
  · exact (goesOn_next _).2 (csPassThrough_opInv h hc hi ‹_›)
  · exact (goesOn_next _).2 (csSearch_opInv h hc hi ‹_›)
  · rename_i hst
    rw [goesOn_next]
    exact h.clockOn hc hi hp (by simp [Held, csWrite]) rfl rfl
      ⟨hcur, by simp [csWrite], by simp [csWrite], fun _ => hach (.inl hst)⟩
  · rename_i hst
    rw [goesOn_next]
    split
    · exact csSpin_opInv h hc hi hst
    · exact h.clockOn hc hi hp (by simp [Held, csEnable]) rfl rfl
        ⟨hcur, by simp [csEnable], by simp [csEnable], fun _ => hach (.inr (.inl hst))⟩
  · exact (goesOn_next _).2 (csRecord_opInv h hc hi ‹_›)
  · simp_all [isCsPhase]

/-! #### Operations without a table: CHANGE_FREQUENCY, the mode changes, SET_BUS_WIDTH and INIT -/

/-- Phase `p'` of operation `i` is beside phase `p`: at the same depth, with nothing new to know of H. -/
def Beside (i : Instr) (p p' : Phase) : Prop :=
  phasesOf i p' = true ∧ returnOf i p' = returnOf i p ∧ (needsVoltage p' = true → needsVoltage p = true) ∧
  knowsBase p' = false

theorem OpInv.goesTo {s u : State} {i : Instr} {p' : Phase} {q' : Nat} (h : OpInv s) (hc : s.cur = some i)
    (hi : tableFree i = true) (hk : Held s u) (hret : u.ret = s.ret) (hb : Beside i s.st p')
    (hq : p' = .cf3 → q' = 0) : OpInv (goTo p' q' u) := by
  obtain ⟨hphase, hback, hvolt, hbase⟩ := hb
  have hc' : u.cur = some i := hk.1.trans hc
  have hcall : (goTo p' q' u).ret = returnOf i p' := hret.trans ((h.running hc).2.trans hback.symm)
  refine h.goesOn hc hk ⟨hphase, hcall, hvolt, fun hp hne => absurd (hq hp) hne, ?_, ?_, hbase⟩
  · rw [hasTable_tableFree hc hi]
    exact hasTable_tableFree hc' hi
  · rintro c rfl
    cases hi

/-- A nested sequence is entered at the first phase of it that goes back where the call says. -/
theorem OpInv.calls {s u : State} {i : Instr} {first p : Phase} {q : Nat} (h : OpInv s) (hc : s.cur = some i)
    (hi : tableFree i = true) (hk : Held s u)
    (hb : phasesOf i first = true ∧ returnOf i first = some (p, q) ∧ needsVoltage first = false ∧
      knowsBase first = false ∧ first ≠ .cf3) : OpInv (call first p q u) := by
  obtain ⟨hphase, hback, hvolt, hbase, hne⟩ := hb
  have hc' : u.cur = some i := hk.1.trans hc
  refine h.goesOn hc hk ⟨hphase, hback.symm, by simp [hvolt], fun hp => absurd hp hne, ?_, ?_, hbase⟩
  · rw [hasTable_tableFree hc hi]
    exact hasTable_tableFree hc' hi
  · rintro c rfl
    cases hi

theorem changeFrequencyStep_goesOn {s : State} {f : Word} (h : OpInv s) (hc : s.cur = some (.changeFrequency f)) :
    GoesOn (changeFrequencyStep f s) := by
  obtain ⟨hphase, -⟩ := h.running hc
  unfold changeFrequencyStep
  split
  · rename_i hst
    rw [goesOn_next]
    unfold cfIdle
    dsimp only
    split
    · exact h.goesTo hc rfl (by simp [Held]) (by simp) (by rw [hst]; exact ⟨rfl, rfl, nofun, rfl⟩) nofun
    · exact (h.same (t := regRead .presentState s) (by simp [Same, Held])).finishes (by simpa using hc) rfl _
  · rename_i hst
    rw [goesOn_next]
    unfold cfDisable
    split
    · exact h.goesTo hc rfl (by simp [Held]) (by simp) (by rw [hst]; exact ⟨rfl, rfl, nofun, rfl⟩) nofun
    · exact h.goesTo hc rfl (by simp [Held]) rfl (by rw [hst]; exact ⟨rfl, rfl, nofun, rfl⟩) fun _ => rfl
  · rename_i hst
    unfold cfSupply
    split
    · rw [goesOn_next]
      exact h.calls hc rfl (by simp [Held]) ⟨rfl, rfl, rfl, rfl, nofun⟩
    · obtain ⟨k, hk⟩ := Option.isSome_iff_exists.1 (h.record.innerStatus hc hst ‹_›)
      rw [hk, goesOn_next]
      exact h.finishes hc rfl k
  · refine clkSupplyStep_goesOn h hc rfl ?_
    simp_all [phasesOf]

theorem modeClockOff_opInv {s : State} {i : Instr} {here after : Phase} (h : OpInv s) (hc : s.cur = some i)
    (hi : tableFree i = true) (hst : s.st = here) (hb : Beside i here here) (hb' : Beside i here after)
    (hne : here ≠ .cf3) : OpInv (modeClockOff here after s) := by
  subst hst
  unfold modeClockOff
  split
  · exact h.goesTo hc hi (by simp [Held]) (by simp) hb (fun hp => absurd hp hne)
  · exact h.goesTo hc hi (by simp [Held]) rfl hb' fun _ => rfl

theorem modeSelect_opInv {s : State} {i : Instr} {here after : Phase} (bit : Half) (h : OpInv s) (hc : s.cur = some i)
    (hi : tableFree i = true) (hst : s.st = here) (hb : Beside i here here) (hb' : Beside i here after)
    (hne : here ≠ .cf3) : OpInv (modeSelect here after bit s) := by
  subst hst
  unfold modeSelect
  split
  · exact h.goesTo hc hi (by simp [Held]) (by simp) hb (fun hp => absurd hp hne)
  · exact h.goesTo hc hi (by simp [Held]) rfl hb' fun _ => rfl

theorem modeClockOn_goesOn {s : State} {i : Instr} {here : Phase} (h : OpInv s) (hc : s.cur = some i)
    (hi : i = .setSdrMode ∨ i = .setDdrMode) (hback : returnOf i .cs1 = some (here, 1)) :
    GoesOn (modeClockOn here s) := by
  obtain ⟨f, hf⟩ := Option.isSome_iff_exists.1 (h.record.currentRate hc hi)
  have hfree : tableFree i = true := by rcases hi with rfl | rfl <;> rfl
  unfold modeClockOn
  split
  · rw [hf, goesOn_next]
    exact h.calls hc hfree (by simp [Held]) ⟨by rcases hi with rfl | rfl <;> rfl, hback, rfl, rfl, nofun⟩
  · exact (goesOn_next _).2 (h.finishes hc hfree _)

theorem setSdrModeStep_goesOn {s : State} (h : OpInv s) (hc : s.cur = some .setSdrMode) :
    GoesOn (setSdrModeStep s) := by
  obtain ⟨hphase, -⟩ := h.running hc
  unfold setSdrModeStep
  split
  · exact (goesOn_next _).2
      (modeClockOff_opInv h hc rfl ‹_› ⟨rfl, rfl, nofun, rfl⟩ ⟨rfl, rfl, nofun, rfl⟩ nofun)
  · exact (goesOn_next _).2
      (modeSelect_opInv _ h hc rfl ‹_› ⟨rfl, rfl, nofun, rfl⟩ ⟨rfl, rfl, nofun, rfl⟩ nofun)
  · exact modeClockOn_goesOn h hc (.inl rfl) rfl
  · refine clkSupplyStep_goesOn h hc rfl ?_
    simp_all [phasesOf]

theorem setDdrModeStep_goesOn {s : State} (h : OpInv s) (hc : s.cur = some .setDdrMode) :
    GoesOn (setDdrModeStep s) := by
  obtain ⟨hphase, -⟩ := h.running hc
  unfold setDdrModeStep
  split
  · exact (goesOn_next _).2
      (modeClockOff_opInv h hc rfl ‹_› ⟨rfl, rfl, nofun, rfl⟩ ⟨rfl, rfl, nofun, rfl⟩ nofun)
  · exact (goesOn_next _).2
      (modeSelect_opInv _ h hc rfl ‹_› ⟨rfl, rfl, nofun, rfl⟩ ⟨rfl, rfl, nofun, rfl⟩ nofun)
  · exact modeClockOn_goesOn h hc (.inr rfl) rfl
  · refine clkSupplyStep_goesOn h hc rfl ?_
    simp_all [phasesOf]

/-- SET_BUS_WIDTH, alone and nested in INIT. -/
theorem setBusWidthStep_goesOn {s : State} {i : Instr} (h : OpInv s) (hc : s.cur = some i) (hi : runsWidth i = true)
    (hp : isBwPhase s.st = true) : GoesOn (setBusWidthStep s) := by
  have hfree : tableFree i = true := by
    cases i with
    | init | setBusWidth w => rfl
    | _ => cases hi
  have hb : ∀ p, isBwPhase p = true → Beside i p .bw2 := by
    intro p hp
    cases i with
    | init | setBusWidth w => cases p <;> cases hp <;> exact ⟨rfl, rfl, nofun, rfl⟩
    | _ => cases hi
  unfold setBusWidthStep
  split
  · rw [goesOn_next]
    unfold bwCode
    split
    · exact h.finishes hc hfree _
    · exact h.goesTo hc hfree (by simp [Held]) rfl (hb _ hp) nofun
  · rw [goesOn_next]
    unfold bwWrite
    split
    · exact h.goesTo hc hfree (by simp [Held]) (by simp) (hb _ hp) nofun
    · exact (h.same (t := regWrite .hostCtrl1 (s.work.tmp ||| s.work.code.setWidth 32) s)
        (by simp [Same, Held])).finishes hc hfree _
  · simp_all [isBwPhase]

/-! #### SOFT_RESET, alone and nested -/

theorem isSrPhase_iff (p : Phase) : isSrPhase p = true ↔ p = .sr1 ∨ p = .sr2 := by simp [isSrPhase]

theorem isBtPhase_iff (p : Phase) : isBtPhase p = true ↔ p = .bt1 ∨ p = .bt2 ∨ p = .bt3 := by
  simp [isBtPhase, or_assoc]

/-- The two phases of SOFT_RESET go back to one place. -/
theorem returnOf_reset {i : Instr} {p : Phase} (hi : runsReset i = true) (hp : isSrPhase p = true) :
    phasesOf i p = true ∧ returnOf i p = returnOf i .sr1 := by
  cases i with
  | init | sendCommand c | softReset m =>
    obtain rfl | rfl := (isSrPhase_iff p).1 hp <;> simp [phasesOf, returnOf, isSrPhase, isBtPhase]
  | _ => cases hi

/-- A table stands behind SOFT_RESET just where a data command runs it. -/
theorem hasTable_reset {s t : State} {i : Instr} (hi : runsReset i = true) (hc : s.cur = some i) (hc' : t.cur = some i)
    (hp : isSrPhase s.st = true) (hp' : isSrPhase t.st = true) : hasTable t = hasTable s := by
  cases i with
  | sendCommand c => simp [hasTable, hc, hc', hp, hp']
  | init | softReset m => simp [hasTable, hc, hc']
  | _ => cases hi

/-- What the invariant says of a phase of a data transfer, for the operation that stands in it. -/
theorem TableInv.data {s : State} {c : Cmd} (h : TableInv s) (hc : s.cur = some (.sendCommand c))
    (hp : inTransfer s.st s.pos = true) : c.dataPresent = true := by
  obtain ⟨-, -, hdata, -⟩ := h
  exact hdata c hc hp

theorem OpInv.resetOn {s t : State} {i : Instr} (h : OpInv s) (hc : s.cur = some i) (hi : runsReset i = true)
    (hp : isSrPhase s.st = true) (hk : Held s t) (hret : t.ret = s.ret) (hp' : isSrPhase t.st = true) : OpInv t := by
  obtain ⟨-, hback⟩ := returnOf_reset hi hp
  obtain ⟨hphase, hback'⟩ := returnOf_reset hi hp'
  refine h.goesOn hc hk ⟨hphase, by rw [hret, (h.running hc).2, hback, hback'], ?_, ?_,
    hasTable_reset hi hc (hk.1.trans hc) hp hp', ?_, ?_⟩
  · obtain hst | hst := (isSrPhase_iff _).1 hp' <;> simp [hst, needsVoltage]
  · obtain hst | hst := (isSrPhase_iff _).1 hp' <;> simp [hst]
  · rintro c rfl -
    exact h.table.data hc (by simp [inTransfer, hp])
  · obtain hst | hst := (isSrPhase_iff _).1 hp' <;> simp [hst, knowsBase]

/-- The end of SOFT_RESET: back to IN.2 or SC.11, or to the port. -/
theorem OpInv.leavesReset {s u : State} {i : Instr} (h : OpInv s) (hc : s.cur = some i) (hi : runsReset i = true)
    (hp : isSrPhase s.st = true) (hs : Same s u) : OpInv (leave u) := by
  have hu := h.same hs
  obtain ⟨⟨hcur, -⟩, hst, -⟩ := hs
  have hc' : u.cur = some i := hcur.trans hc
  obtain ⟨-, hback⟩ := hu.running hc'
  rw [hst, (returnOf_reset hi hp).2] at hback
  cases i with
  | init =>
    rw [leave_nested hback]
    exact hu.goesOn hc' (by simp [Held]) ⟨rfl, rfl, nofun, nofun, by simp [hasTable, hc'], nofun, rfl⟩
  | sendCommand c =>
    rw [leave_nested hback]
    exact hu.goesOn hc' (by simp [Held]) ⟨rfl, rfl, nofun, nofun, by simp [hasTable, hc', hst, hp], nofun, rfl⟩
  | softReset m =>
    rw [leave_sequence hback]
    exact hu.ends rfl hu.rateRecorded hback (hu.noFlight (hu.not_aborted hc') (hasTable_tableFree hc' rfl)) _
  | _ => cases hi

theorem softResetStep_goesOn {s : State} {i : Instr} (h : OpInv s) (hc : s.cur = some i) (hi : runsReset i = true)
    (hp : isSrPhase s.st = true) : GoesOn (softResetStep s) := by
  unfold softResetStep
  split
  · exact (goesOn_next _).2 (h.resetOn hc hi hp (by simp [Held, srWrite]) rfl rfl)
  · rw [goesOn_next]
    unfold srSpin
    split
    · exact h.aborts rfl rfl rfl
    · dsimp only
      split
      · exact h.leavesReset hc hi hp (by simp [Same, Held])
      · exact h.same (by simp [Same, Held])
  · simp_all [isSrPhase]

/-! #### BUILD_TABLE, alone and nested -/

/-- BUILD_TABLE stands in one of its phases, in the operation that runs it. -/
theorem returnOf_table {i : Instr} {p : Phase} (hi : runsTable i = true) (hp : isBtPhase p = true) :
    phasesOf i p = true ∧ returnOf i p = returnOf i .bt1 := by
  cases i with
  | sendCommand c | buildTable a n => simp [phasesOf, returnOf, hp, show isBtPhase .bt1 = true from rfl]
  | _ => cases hi

/-- In BT.2 and BT.3 there is a table; in BT.1 there is none yet. -/
theorem OpInv.hasTable_table {s : State} {i : Instr} (h : OpInv s) (hc : s.cur = some i) (hi : runsTable i = true)
    (hp : isBtPhase s.st = true) : hasTable s = (s.st != .bt1) := by
  cases i with
  | sendCommand c =>
    have hdata := h.table.data hc (by simp [inTransfer, hp])
    obtain hst | hst | hst := (isBtPhase_iff _).1 hp <;> simp [hasTable, hc, hst, hdata, isSrPhase]
  | buildTable a n => obtain hst | hst | hst := (isBtPhase_iff _).1 hp <;> simp [hasTable, hc, hst]
  | _ => cases hi

theorem OpInv.tableOn {s t : State} {i : Instr} (h : OpInv s) (hc : s.cur = some i) (hi : runsTable i = true)
    (hp : isBtPhase s.st = true) (hk : Held s t) (hret : t.ret = s.ret) (hp' : t.st = .bt2 ∨ t.st = .bt3)
    (hne : s.st ≠ .bt1) : OpInv t := by
  have hp'' : isBtPhase t.st = true := (isBtPhase_iff _).2 (.inr hp')
  obtain ⟨-, hback⟩ := returnOf_table hi hp
  obtain ⟨hphase, hback'⟩ := returnOf_table hi hp''
  have hc' := hk.1.trans hc
  have hdata : ∀ c, i = .sendCommand c → c.dataPresent = true := by
    rintro c rfl
    exact h.table.data hc (by simp [inTransfer, hp])
  refine h.goesOn hc hk ⟨hphase, by rw [hret, (h.running hc).2, hback, hback'], ?_, ?_, ?_,
    fun c hc _ => hdata c hc, ?_⟩
  · obtain hst | hst := hp' <;> simp [hst, needsVoltage]
  · obtain hst | hst := hp' <;> simp [hst]
  · rw [h.hasTable_table hc hi hp]
    cases i with
    | sendCommand c => obtain hst | hst := hp' <;> simp [hasTable, hc', hst, hne, hdata c rfl]
    | buildTable a n => obtain hst | hst := hp' <;> simp [hasTable, hc', hst, hne]
    | _ => cases hi
  · obtain hst | hst := hp' <;> simp [hst, knowsBase]

/-- RecordInv asks nothing of an operation that builds a table. -/
theorem RecordInv.of_runsTable {s : State} {i : Instr} (hc : s.cur = some i) (hi : runsTable i = true) :
    RecordInv s := by
  cases i with
  | sendCommand c | buildTable a n => simp [RecordInv, hc]
  | _ => cases hi

/-- BT.1: the block answered is live, and it is the table from now on. -/
theorem btAlloc_opInv {s : State} {i : Instr} (h : OpInv s) (hc : s.cur = some i) (hi : runsTable i = true)
    (hst : s.st = .bt1) : OpInv (btAlloc s) := by
  have hp : isBtPhase s.st = true := by simp [isBtPhase, hst]
  have hnone := h.noFlight (h.not_aborted hc) (by simp [h.hasTable_table hc hi hp, hst])
  have hdata : ∀ c, i = .sendCommand c → c.dataPresent = true := by
    rintro c rfl
    exact h.table.data hc (by simp [inTransfer, hp])
  obtain ⟨hphase, hback⟩ := returnOf_table (p := .bt2) hi rfl
  unfold btAlloc
  dsimp only
  split
  · exact h.aborts (by simp) (by simp) (by simp)
  · rename_i a ha
    refine ⟨⟨by simpa using h.homes, ?_⟩, .of_runsTable (by simpa using hc) hi, ⟨fun _ => ⟨a, rfl, ?_⟩, ?_, ?_, ?_⟩,
      h.rate.of_not_knowsBase (by simp) (by simp) rfl⟩
    · simp only [goTo_fields, alloc_fields, hc]
      exact ⟨hphase, by rw [(h.running hc).2, hst, (returnOf_table hi rfl).2, hback]⟩
    · simp [alloc, ha]
    · rintro addr len e hadma
      obtain rfl : i = .adma2Entry addr len e := by simpa [hc] using hadma
      cases hi
    · rintro c hsend -
      exact hdata c (by simpa [hc] using hsend)
    · simp [hnone]

/-- BT.3: the table is handed to SEND_COMMAND, or recorded. -/
theorem btClean_opInv {s : State} {i : Instr} (t : Word) (h : OpInv s) (hc : s.cur = some i) (hi : runsTable i = true)
    (hst : s.st = .bt3) : OpInv (btClean t s) := by
  have hp : isBtPhase s.st = true := by simp [isBtPhase, hst]
  obtain ⟨-, hback⟩ := h.running hc
  cases i with
  | sendCommand c =>
    have hdata := h.table.data hc (by simp [inTransfer, hp])
    rw [btClean, handOver_nested (p := .sc4) (q := 1) _ (by simpa [hst, returnOf, isBtPhase] using hback)]
    refine h.goesOn hc (by simp [Held]) ⟨rfl, rfl, nofun, nofun, ?_, ?_, rfl⟩
    · simp [hst, hasTable, hc, hdata]
    · rintro _ ⟨⟩ -
      exact hdata
  | buildTable a n =>
    have hnone := h.noFlight_outside (h.not_aborted hc) (by simp [hc])
    rw [btClean, handOver_sequence _ (by simpa [returnOf] using hback)]
    exact h.ends (u := cacheClean t (8 * s.work.count) s) (by simp) (by simpa [RateRecorded] using h.rateRecorded)
      (by simpa [returnOf] using hback) (by simpa using hnone) _
  | _ => cases hi

theorem buildTableStep_goesOn {s : State} {i : Instr} (h : OpInv s) (hc : s.cur = some i) (hi : runsTable i = true)
    (hp : isBtPhase s.st = true) : GoesOn (buildTableStep s) := by
  have hhas := h.hasTable_table hc hi hp
  unfold buildTableStep
  split
  · exact (goesOn_next _).2 (btAlloc_opInv h hc hi ‹_›)
  · rename_i hst
    obtain ⟨t, ht, -⟩ := h.table.1 (by simp [hhas, hst])
    rw [ht, goesOn_next]
    unfold btEntry
    dsimp only
    split
    · exact h.tableOn hc hi hp (by simp [Held]) (by simp) (.inl rfl) (by simp [hst])
    · split
      · exact h.tableOn hc hi hp (by simp [Held]) (by simp) (.inr rfl) (by simp [hst])
      · exact h.tableOn hc hi hp (by simp [Held]) (by simp) (.inl rfl) (by simp [hst])
  · rename_i hst
    obtain ⟨t, ht, -⟩ := h.table.1 (by simp [hhas, hst])
    rw [ht, goesOn_next]
    exact btClean_opInv t h hc hi hst
  · simp_all [isBtPhase]

/-! #### SEND_COMMAND -/

/-- The places of SEND_COMMAND itself at which a data command has its table. -/
def tableBuilt (p : Phase) (q : Nat) : Bool :=
  (p == .sc4 && q != 0) || p == .sc5 || p == .sc6 || p == .sc7 || p == .sc8 || p == .sc9 || p == .sc10 || p == .sc11

/-- The phases of SEND_COMMAND itself, with nothing nested. -/
def isScPhase (p : Phase) : Bool :=
  p == .sc1 || p == .sc2 || p == .sc3 || p == .sc4 || p == .sc5 || p == .sc6 || p == .sc7 || p == .sc8 || p == .sc9 ||
    p == .sc10 || p == .sc11

theorem isScPhase_facts {p : Phase} (c : Cmd) (h : isScPhase p = true) :
    phasesOf (.sendCommand c) p = true ∧ returnOf (.sendCommand c) p = none ∧ needsVoltage p = false ∧
    knowsBase p = false ∧ isSrPhase p = false ∧ isBtPhase p = false ∧ p ≠ .cf3 := by
  cases p <;> cases h <;> exact ⟨rfl, rfl, rfl, rfl, rfl, rfl, nofun⟩

theorem hasTable_send {s : State} {c : Cmd} (hc : s.cur = some (.sendCommand c)) (hp : isScPhase s.st = true) :
    hasTable s = (c.dataPresent && tableBuilt s.st s.pos) := by
  obtain ⟨-, -, -, -, hsr, hbt, -⟩ := isScPhase_facts c hp
  have h2 : (s.st == .bt2) = false := by
    revert hbt
    cases s.st <;> decide
  have h3 : (s.st == .bt3) = false := by
    revert hbt
    cases s.st <;> decide
  simp [hasTable, hc, hsr, h2, h3, tableBuilt]

/-- SEND_COMMAND goes on in its own phases. -/
theorem OpInv.sends {s u : State} {c : Cmd} {p' : Phase} {q' : Nat} (h : OpInv s) (hc : s.cur = some (.sendCommand c))
    (hp : isScPhase s.st = true) (hk : Held s u) (hret : u.ret = s.ret) (hp' : isScPhase p' = true)
    (hbuilt : c.dataPresent = true → tableBuilt p' q' = tableBuilt s.st s.pos)
    (hdata : p' = .sc4 → q' ≠ 0 → s.st = .sc4 ∧ s.pos ≠ 0) : OpInv (goTo p' q' u) := by
  obtain ⟨-, hback, -⟩ := isScPhase_facts c hp
  obtain ⟨hphase, hback', hvolt, hbase, hsr, hbt, hcf⟩ := isScPhase_facts c hp'
  have hc' : u.cur = some (.sendCommand c) := hk.1.trans hc
  have hnone : u.ret = none := hret.trans ((h.running hc).2.trans hback)
  refine h.goesOn hc hk ⟨hphase, hnone.trans hback'.symm, by simp [hvolt], fun hst => absurd hst hcf, ?_, ?_, hbase⟩
  · rw [hasTable_send hc hp, hasTable_send (s := goTo p' q' u) hc' hp']
    cases hd : c.dataPresent with
    | false => rfl
    | true => simpa using hbuilt hd
  · rintro _ ⟨⟩ htransfer
    obtain ⟨hst, hpos⟩ : p' = .sc4 ∧ q' ≠ 0 := by simpa [inTransfer, hsr, hbt] using htransfer
    obtain ⟨hs, hq⟩ := hdata hst hpos
    exact h.table.data hc (by simp [inTransfer, hs, hq])

/-- SEND_COMMAND returns with no table in the device's hands. -/
theorem OpInv.sendEnds {s u : State} {c : Cmd} (k : Status) (h : OpInv s) (hc : s.cur = some (.sendCommand c))
    (hp : isScPhase s.st = true) (hhome : u.home = s.home) (hh : u.h = s.h) (hcfg : u.cfg = s.cfg)
    (hret : u.ret = s.ret) (hflight : u.tableInFlight = none) : OpInv (finish k u) := by
  obtain ⟨-, hback, -⟩ := isScPhase_facts c hp
  have hnone : u.ret = none := hret.trans ((h.running hc).2.trans hback)
  rw [finish_port k hnone]
  exact h.ends hhome (by simpa [RateRecorded, hh, hcfg] using h.rateRecorded) hnone hflight _

theorem scIdle_opInv {s : State} {c : Cmd} (h : OpInv s) (hc : s.cur = some (.sendCommand c)) (hst : s.st = .sc1) :
    OpInv (scIdle s) := by
  have hp : isScPhase s.st = true := by rw [hst]; rfl
  have hnone := h.noFlight (h.not_aborted hc) (by simp [hasTable_send hc hp, hst, tableBuilt])
  unfold scIdle
  split
  · split <;> exact h.sends hc hp (by simp [Held]) (by simp) rfl (fun _ => by rw [hst]; rfl) nofun
  · dsimp only
    split
    · exact h.sendEnds _ hc hp rfl rfl rfl rfl hnone
    · exact h.sends hc hp (by simp [Held]) rfl rfl (fun _ => by rw [hst]; rfl) nofun

theorem scMap_opInv {s : State} {c : Cmd} (h : OpInv s) (hc : s.cur = some (.sendCommand c)) (hst : s.st = .sc2) :
    OpInv (scMap c s) := by
  have hp : isScPhase s.st = true := by rw [hst]; rfl
  have hnone := h.noFlight (h.not_aborted hc) (by simp [hasTable_send hc hp, hst, tableBuilt])
  unfold scMap
  split
  · exact h.sendEnds _ hc hp rfl rfl rfl rfl hnone
  · exact h.sends hc hp (by simp [Held]) rfl rfl (fun _ => by rw [hst]; rfl) nofun

/-- Before it has a table, SEND_COMMAND may set its working registers as it likes. -/
theorem OpInv.setsWork {s : State} {c : Cmd} (h : OpInv s) (hc : s.cur = some (.sendCommand c))
    (hp : isScPhase s.st = true) (hhas : hasTable s = false) (w : Work) : OpInv { s with work := w } := by
  obtain ⟨-, -, hvolt, hbase, -⟩ := isScPhase_facts c hp
  obtain ⟨-, -, hdata, -⟩ := h.table
  refine ⟨h.control, .of_runsTable (i := .sendCommand c) hc rfl, ⟨?_, ?_, hdata, ?_⟩,
    h.rate.of_not_knowsBase rfl rfl hbase⟩
  · intro ht
    rw [show hasTable { s with work := w } = hasTable s from rfl, hhas] at ht
    cases ht
  · rintro a n e hadma
    rw [show ({ s with work := w } : State).cur = s.cur from rfl, hc] at hadma
    cases hadma
  · intro hna t n ht
    rw [show ({ s with work := w } : State).tableInFlight = s.tableInFlight from rfl, h.noFlight hna hhas] at ht
    cases ht

/-- SC.4 hands the live table to the device (10_state.md R60). -/
theorem OpInv.handsOver {s : State} {c : Cmd} {t : Word} (h : OpInv s) (hc : s.cur = some (.sendCommand c))
    (hhas : hasTable s = true) (ht : s.work.table = some t) :
    OpInv { s with tableInFlight := some (t, 8 * s.work.count) } := by
  obtain ⟨htable, hadma, hdata, -⟩ := h.table
  refine ⟨h.control, h.record, ⟨htable, hadma, hdata, ?_⟩, h.rate⟩
  rintro - _ _ ⟨⟩
  exact ⟨hhas, ht, rfl, c, hc⟩

/-- A phase whose position says nothing of the table or of an inner status may move it. -/
theorem OpInv.repos {s : State} {p : Phase} {q : Nat} (h : OpInv s) (hst : s.st = p) (hsc : p ≠ .sc4) (hcf : p ≠ .cf3) :
    OpInv (goTo p q s) := by
  subst hst
  obtain ⟨hcontrol, hrecord, htable, hrate⟩ := h
  have hsc' : (s.st == .sc4) = false := by simpa using hsc
  have hhas : hasTable (goTo s.st q s) = hasTable s := by simp [hasTable, hsc']
  refine ⟨hcontrol, ?_, ?_, hrate⟩
  · obtain ⟨hr1, hr2, hr3, hr4⟩ := hrecord
    exact ⟨hr1, hr2, fun f hf => ⟨(hr3 f hf).1, fun hst => absurd hst hcf⟩, hr4⟩
  · simpa [TableInv, hhas, hsc] using htable

theorem scData_goesOn {s : State} {c : Cmd} (h : OpInv s) (hc : s.cur = some (.sendCommand c)) (hst : s.st = .sc4) :
    GoesOn (scData c s) := by
  have hp : isScPhase s.st = true := by rw [hst]; rfl
  have hhas := hasTable_send hc hp
  unfold scData
  split
  · rename_i hpos
    have hw := h.setsWork hc hp (by simp [hhas, hst, hpos, tableBuilt])
    rw [goesOn_next]
    split
    · rename_i hdata
      refine (hw { s.work with table := none, addr := c.buf, len := c.blockCount * s.cfg.blockSize }).goesOn hc
        (by simp [Held]) ⟨rfl, rfl, nofun, nofun, ?_, ?_, rfl⟩
      · simp only [hasTable, call_fields, hc, hst, hpos]
        rfl
      · rintro _ ⟨⟩ -
        exact hdata
    · rename_i hdata
      exact (hw { s.work with table := none }).sends hc hp (by simp [Held]) rfl rfl (fun hd => absurd hd hdata) nofun
  · rename_i hpos
    rw [goesOn_next]
    split <;> exact h.sends hc hp (by simp [Held]) rfl rfl (fun _ => by rw [hst, hpos]; rfl)
      (fun _ _ => ⟨hst, by simp [hpos]⟩)
  · rename_i hpos
    exact (goesOn_next _).2 (h.sends hc hp (by simp [Held]) rfl rfl (fun _ => by rw [hst, hpos]; rfl)
      (fun _ _ => ⟨hst, by simp [hpos]⟩))
  · rename_i hpos
    exact (goesOn_next _).2 (h.sends hc hp (by simp [Held]) rfl rfl (fun _ => by rw [hst, hpos]; rfl)
      (fun _ _ => ⟨hst, by simp [hpos]⟩))
  · rename_i hpos
    have hdata := h.table.data hc (by simp [inTransfer, hst, hpos])
    have ht : hasTable s = true := by rw [hhas, hdata, hst, hpos]; rfl
    obtain ⟨t, htable, -⟩ := h.table.1 ht
    rw [htable, goesOn_next]
    exact (h.handsOver hc ht htable).sends hc hp (by simp [Held]) rfl rfl (fun _ => by simp only [hst, hpos]; rfl)
      (fun _ _ => ⟨hst, by simp [hpos]⟩)
  · rename_i hpos _ _ _ _
    refine (goesOn_next _).2 (h.sends hc hp (by simp [Held]) rfl rfl (fun _ => ?_) nofun)
    simp only [hst, tableBuilt]
    simp [show s.pos ≠ 0 from hpos]

theorem scIssue_opInv {s : State} {c : Cmd} (h : OpInv s) (hc : s.cur = some (.sendCommand c)) (hst : s.st = .sc5) :
    OpInv (scIssue c s) := by
  have hp : isScPhase s.st = true := by rw [hst]; rfl
  unfold scIssue
  split <;> exact h.sends hc hp (by simp [Held]) rfl rfl (fun _ => by rw [hst]; rfl) nofun

theorem scCmdPoll_opInv {s : State} {c : Cmd} (h : OpInv s) (hc : s.cur = some (.sendCommand c)) (hst : s.st = .sc6) :
    OpInv (scCmdPoll s) := by
  have hp : isScPhase s.st = true := by rw [hst]; rfl
  unfold scCmdPoll
  split
  · exact h.sends hc hp (by simp [Held]) (by simp) rfl (fun _ => by rw [hst]; rfl) nofun
  · dsimp only
    split <;> exact h.sends hc hp (by simp [Held]) rfl rfl (fun _ => by rw [hst]; rfl) nofun
  · exact h.sends hc hp (by simp [Held]) rfl rfl (fun _ => by rw [hst]; rfl) nofun

theorem scTransPoll_opInv {s : State} {c : Cmd} (h : OpInv s) (hc : s.cur = some (.sendCommand c)) (hst : s.st = .sc8) :
    OpInv (scTransPoll c s) := by
  have hp : isScPhase s.st = true := by rw [hst]; rfl
  unfold scTransPoll
  split
  · split <;> exact h.sends hc hp (by simp [Held]) rfl rfl (fun _ => by rw [hst]; rfl) nofun
  · exact h.sends hc hp (by simp [Held]) (by simp) rfl (fun _ => by rw [hst]; rfl) nofun
  · dsimp only
    split <;> exact h.sends hc hp (by simp [Held]) rfl rfl (fun _ => by rw [hst]; rfl) nofun
  · exact h.sends hc hp (by simp [Held]) rfl rfl (fun _ => by rw [hst]; rfl) nofun

/-- RESP_EXTRACT, alone and in SC.7, with a way to end that keeps the invariant. -/
theorem respExtractStep_opInv {s : State} (rt : BitVec 2) {done : State → State} (h : OpInv s) (hst : s.st = .sc7)
    (hd : ∀ u, Same s u → OpInv (done u)) : OpInv (respExtractStep rt done s) := by
  unfold respExtractStep
  split
  · dsimp only
    split
    · exact (h.same (by simp [Same, Held])).repos (by simpa using hst) nofun nofun
    · exact hd _ (by simp [Same, Held])
  · exact (h.same (by simp [Same, Held])).repos (by simpa using hst) nofun nofun
  · exact (h.same (by simp [Same, Held])).repos (by simpa using hst) nofun nofun
  · exact hd _ (by simp [Same, Held])

/-- ERR_DECODE, alone and in SC.9, with a way to end that keeps the invariant. -/
theorem errDecodeStep_opInv {s : State} {done : State → State} (h : OpInv s) (hst : s.st = .sc9)
    (hd : ∀ u, Same s u → OpInv (done u)) : OpInv (errDecodeStep done s) := by
  unfold errDecodeStep
  split
  · dsimp only
    split
    · exact (h.same (by simp [Same, Held])).repos (by simpa using hst) nofun nofun
    · exact hd _ (by simp [Same, Held])
  · exact hd _ (by simp [Same, Held])

theorem scCleanup_opInv {s : State} {c : Cmd} (h : OpInv s) (hc : s.cur = some (.sendCommand c)) (hst : s.st = .sc10) :
    OpInv (scCleanup c s) := by
  have hp : isScPhase s.st = true := by rw [hst]; rfl
  unfold scCleanup
  split
  · rename_i hdata
    refine h.goesOn hc (by simp [Held]) ⟨rfl, rfl, nofun, nofun, ?_, ?_, rfl⟩
    · simp [hasTable, hc, hst, isSrPhase]
    · rintro _ ⟨⟩ -
      exact hdata
  · exact h.sends hc hp (by simp [Held]) rfl rfl (fun _ => by rw [hst]; rfl) nofun

theorem scEnd_goesOn {s : State} {c : Cmd} (h : OpInv s) (hc : s.cur = some (.sendCommand c)) (hst : s.st = .sc11) :
    GoesOn (scEnd c s) := by
  have hp : isScPhase s.st = true := by rw [hst]; rfl
  have hhas := hasTable_send hc hp
  unfold scEnd
  split
  · exact (goesOn_next _).2 (h.sends hc hp (by simp [Held]) rfl rfl (fun _ => by rw [hst]; rfl) nofun)
  · split
    · rename_i hdata
      obtain ⟨t, ht, -⟩ := h.table.1 (by rw [hhas, hdata, hst]; rfl)
      rw [ht, goesOn_next]
      exact h.sendEnds _ hc hp rfl rfl rfl rfl rfl
    · rename_i hdata
      exact (goesOn_next _).2
        (h.sendEnds _ hc hp rfl rfl rfl rfl (h.noFlight (h.not_aborted hc) (by simp [hhas, hdata])))

theorem sendCommandStep_goesOn {s : State} {c : Cmd} (h : OpInv s) (hc : s.cur = some (.sendCommand c)) :
    GoesOn (sendCommandStep c s) := by
  obtain ⟨hphase, -⟩ := h.running hc
  have hp : isScPhase s.st = true ∨ isSrPhase s.st = true ∨ isBtPhase s.st = true := by
    simpa [phasesOf, isScPhase, or_assoc] using hphase
  unfold sendCommandStep
  split
  · exact (goesOn_next _).2 (scIdle_opInv h hc ‹_›)
  · exact (goesOn_next _).2 (scMap_opInv h hc ‹_›)
  · rename_i hst
    exact (goesOn_next _).2 (h.sends hc (by rw [hst]; rfl) (by simp [Held]) rfl rfl (fun _ => by rw [hst]; rfl)
      (fun _ hne => absurd rfl hne))
  · exact scData_goesOn h hc ‹_›
  · exact (goesOn_next _).2 (scIssue_opInv h hc ‹_›)
  · exact (goesOn_next _).2 (scCmdPoll_opInv h hc ‹_›)
  · rename_i hst
    refine (goesOn_next _).2 (respExtractStep_opInv _ h hst fun u hu => ?_)
    exact h.sends hc (by rw [hst]; rfl) hu.held hu.ret rfl (fun _ => by rw [hst]; rfl) nofun
  · exact (goesOn_next _).2 (scTransPoll_opInv h hc ‹_›)
  · rename_i hst
    refine (goesOn_next _).2 (errDecodeStep_opInv h hst fun u hu => ?_)
    exact h.sends hc (by rw [hst]; rfl) hu.held hu.ret rfl (fun _ => by rw [hst]; rfl) nofun
  · exact (goesOn_next _).2 (scCleanup_opInv h hc ‹_›)
  · exact scEnd_goesOn h hc ‹_›
  · rename_i hst
    exact softResetStep_goesOn h hc rfl (by rw [hst]; rfl)
  · rename_i hst
    exact softResetStep_goesOn h hc rfl (by rw [hst]; rfl)
  · refine buildTableStep_goesOn h hc rfl ?_
    simp_all [isScPhase, isSrPhase]

/-! #### INIT -/

theorem inCaps_opInv {s : State} (h : OpInv s) (hc : s.cur = some .init) (hst : s.st = .in2) : OpInv (inCaps s) := by
  obtain ⟨-, hret⟩ := h.running hc
  rw [hst] at hret
  unfold inCaps
  split
  · exact h.goesTo hc rfl (by simp [Held]) (by simp) (by rw [hst]; exact ⟨rfl, rfl, nofun, rfl⟩) nofun
  · refine ⟨⟨by simpa using h.homes, ?_⟩, ?_, .of_tableFree (i := .init) (by simpa using hc) rfl ?_, ?_⟩
    · simp only [goTo_fields, regRead_fields, hc]
      exact ⟨rfl, hret⟩
    · simp [RecordInv, hc, capRecord]
    · simpa using h.noFlight (h.not_aborted hc) (hasTable_tableFree hc rfl)
    · simp [RateInv, capRecord]

theorem inPower_goesOn {s : State} (h : OpInv s) (hc : s.cur = some .init) (hst : s.st = .in6) :
    GoesOn (inPower s) := by
  obtain ⟨v, hv⟩ := Option.isSome_iff_exists.1 (h.record.1 hc (.inr (.inr (.inr hst))))
  unfold inPower
  rw [hv, goesOn_next]
  split <;> exact h.goesTo hc rfl (by simp [Held]) rfl (by rw [hst]; exact ⟨rfl, rfl, fun _ => rfl, rfl⟩) nofun

theorem inEnables_opInv {s : State} (h : OpInv s) (hc : s.cur = some .init) (hst : s.st = .in10) :
    OpInv (inEnables s) := by
  unfold inEnables
  split <;> exact h.goesTo hc rfl (by simp [Held]) rfl (by rw [hst]; exact ⟨rfl, rfl, nofun, rfl⟩) nofun

theorem initStep_goesOn {s : State} (h : OpInv s) (hc : s.cur = some .init) : GoesOn (initStep s) := by
  obtain ⟨hphase, -⟩ := h.running hc
  unfold initStep
  split
  · exact (goesOn_next _).2 (h.calls hc rfl (by simp [Held]) ⟨rfl, rfl, rfl, rfl, nofun⟩)
  · exact (goesOn_next _).2 (inCaps_opInv h hc ‹_›)
  · rename_i hst
    exact (goesOn_next _).2
      (h.goesTo hc rfl (by simp [Held]) rfl (by rw [hst]; exact ⟨rfl, rfl, fun _ => rfl, rfl⟩) nofun)
  · rename_i hst
    exact (goesOn_next _).2
      (h.goesTo hc rfl (by simp [Held]) rfl (by rw [hst]; exact ⟨rfl, rfl, fun _ => rfl, rfl⟩) nofun)
  · rename_i hst
    exact (goesOn_next _).2
      (h.goesTo hc rfl (by simp [Held]) rfl (by rw [hst]; exact ⟨rfl, rfl, fun _ => rfl, rfl⟩) nofun)
  · exact inPower_goesOn h hc ‹_›
  · rename_i hst
    rw [goesOn_next]
    unfold inWait
    split
    · exact h.goesTo hc rfl (by simp [Held]) rfl (by rw [hst]; exact ⟨rfl, rfl, nofun, rfl⟩) nofun
    · exact h
  · exact (goesOn_next _).2 (h.calls hc rfl (by simp [Held]) ⟨rfl, rfl, rfl, rfl, nofun⟩)
  · rename_i hst
    exact (goesOn_next _).2
      (h.goesTo hc rfl (by simp [Held]) rfl (by rw [hst]; exact ⟨rfl, rfl, nofun, rfl⟩) nofun)
  · exact (goesOn_next _).2 (inEnables_opInv h hc ‹_›)
  · exact (goesOn_next _).2 (h.finishes hc rfl _)
  · rename_i hst
    exact setBusWidthStep_goesOn h hc rfl (by rw [hst]; rfl)
  · rename_i hst
    exact setBusWidthStep_goesOn h hc rfl (by rw [hst]; rfl)
  · refine softResetStep_goesOn h hc rfl ?_
    simp_all [phasesOf, isBwPhase]

/-! #### The other sequences run alone -/

/-- A sequence that never has a table ends alone. -/
theorem OpInv.endsAlone {s u : State} {i : Instr} (h : OpInv s) (hc : s.cur = some i) (hi : tableFree i = true)
    (hback : returnOf i s.st = none) (hs : Same s u) (tr : List Record) :
    u.ret = none ∧ OpInv { u with st := u.home, pos := 0, cur := none, work := Work.blank, trace := tr } := by
  have hu := h.same hs
  obtain ⟨⟨hcur, -⟩, hst, -⟩ := hs
  have hc' := hcur.trans hc
  have hret : u.ret = none := (hu.running hc').2.trans (by rw [hst, hback])
  exact ⟨hret, hu.ends rfl hu.rateRecorded hret (hu.noFlight (hu.not_aborted hc') (hasTable_tableFree hc' hi)) tr⟩

theorem entryStep_goesOn {s : State} {addr : Word} {len : Half} {e : Bool} (h : OpInv s)
    (hc : s.cur = some (.adma2Entry addr len e)) : GoesOn (entryStep addr len e s) := by
  obtain ⟨hphase, hret⟩ := h.running hc
  have hst : s.st = .bt2 := by simpa [phasesOf] using hphase
  obtain ⟨-, hadma, -, -⟩ := h.table
  obtain ⟨t, ht⟩ := Option.isSome_iff_exists.1 (hadma addr len e hc)
  have hnone := h.noFlight_outside (h.not_aborted hc) (by simp [hc])
  unfold entryStep
  rw [if_pos hst, ht, goesOn_next]
  split
  · exact (h.same (by simp [Same, Held])).repos (by simpa using hst) nofun nofun
  · have hu : s.ret = none := by simpa [returnOf] using hret
    rw [leave_sequence (by simpa using hu)]
    exact h.ends (by simp) (by simpa [RateRecorded] using h.rateRecorded) (by simpa using hu) (by simpa using hnone) _

/-- The running operation goes on, and keeps the invariant. -/
theorem exec_running_goesOn {s : State} {i : Instr} (h : OpInv s) (hc : s.cur = some i) : GoesOn (exec i s) := by
  obtain ⟨hphase, -⟩ := h.running hc
  cases i with
  | init =>
    rw [exec, execInit, runOp_running hc]
    exact initStep_goesOn h hc
  | sendCommand c =>
    rw [exec, execSendCommand, runOp_running hc]
    exact sendCommandStep_goesOn h hc
  | clkSupply f =>
    rw [exec, execClkSupply, runOp_running hc]
    exact clkSupplyStep_goesOn h hc rfl hphase
  | setBusWidth w =>
    rw [exec, execSetBusWidth, runOp_running hc]
    exact setBusWidthStep_goesOn h hc rfl hphase
  | setSdrMode =>
    rw [exec, execSetSdrMode, runOp_running hc]
    exact setSdrModeStep_goesOn h hc
  | setDdrMode =>
    rw [exec, execSetDdrMode, runOp_running hc]
    exact setDdrModeStep_goesOn h hc
  | modeEnable g =>
    rw [exec, execModeEnable, runOp_running hc, if_pos (by simpa [phasesOf] using hphase), goesOn_next]
    exact (h.same (by simp [Same, Held])).finishes (by simpa using hc) rfl _
  | changeFrequency f =>
    rw [exec, execChangeFrequency, runOp_running hc]
    exact changeFrequencyStep_goesOn h hc
  | buildTable a n =>
    rw [exec, execBuildTable, runOp_running hc]
    exact buildTableStep_goesOn h hc rfl hphase
  | softReset m =>
    rw [exec, execSoftReset, runOp_running hc]
    exact softResetStep_goesOn h hc rfl hphase
  | respExtract rt =>
    have hst : s.st = .sc7 := by simpa [phasesOf] using hphase
    rw [exec, execRespExtract, runOp_running hc, if_pos hst, goesOn_next]
    refine respExtractStep_opInv rt h hst fun u hu => ?_
    obtain ⟨hret, hend⟩ := h.endsAlone hc rfl rfl hu u.trace
    rwa [leave_sequence hret]
  | errDecode =>
    have hst : s.st = .sc9 := by simpa [phasesOf] using hphase
    rw [exec, execErrDecode, runOp_running hc, if_pos hst, goesOn_next]
    refine errDecodeStep_opInv h hst fun u hu => ?_
    obtain ⟨hret, hend⟩ := h.endsAlone hc rfl rfl hu (.decoded u.work.hw :: u.trace)
    rwa [edHandOver, handOver_sequence _ hret]
  | adma2Entry a n e =>
    rw [exec, execAdma2Entry, runOp_running hc]
    exact entryStep_goesOn h hc
  | _ => cases hphase

end Sys2Proof.Machine
end

section
/-! PROOFS. The statements of the family 10_state.md, fourth part: acceptance, memory and the port, and with them that
every step keeps the invariant. -/

namespace Sys2Proof.Machine

/-! #### Acceptance -/

theorem admission_none_phase {i : Instr} {s : State} (h : admission i s = none) : s.st = .uninit ∨ s.st = .idle := by
  unfold admission at h
  split at h
  · cases h
  · split at h
    · cases h
    · split at h
      · cases h
      · rename_i hphase
        tauto

/-- What `i` needs at its acceptance: the fields of H it reads, and for a lone entry a table. -/
def Needs (i : Instr) (s : State) (w : Work) : Prop :=
  (runsClock i = true → s.h.baseClkRate.isSome = true) ∧
  (i = .setSdrMode ∨ i = .setDdrMode → s.h.curClkRate.isSome = true) ∧
  (∀ a n e, i = .adma2Entry a n e → w.table.isSome = true)

/-- An operation starts in a phase of its own, at the outermost depth, before all it has to know. -/
def StartsAt (i : Instr) (p : Phase) : Prop :=
  phasesOf i p = true ∧ returnOf i p = none ∧ needsVoltage p = false ∧ knowsBase p = false ∧ p ≠ .cf3 ∧
  ∀ s : State, s.cur = some i → s.st = p → s.pos = 0 →
    hasTable s = false ∧ ∀ c, i = .sendCommand c → inTransfer p 0 = false

theorem StartsAt.of_tableFree {i : Instr} {p : Phase} (hi : tableFree i = true) (hphase : phasesOf i p = true)
    (hback : returnOf i p = none) (hvolt : needsVoltage p = false) (hbase : knowsBase p = false) (hcf : p ≠ .cf3) :
    StartsAt i p := by
  refine ⟨hphase, hback, hvolt, hbase, hcf, fun t ht _ _ => ⟨hasTable_tableFree ht hi, ?_⟩⟩
  rintro c rfl
  cases hi

theorem OpInv.accepted {s : State} {i : Instr} {p home : Phase} {w : Work} (h : OpInv s) (hc : s.cur = none)
    (ha : admission i s = none) (hhome : home = .idle ∨ home = s.st) (hp : StartsAt i p) (hn : Needs i s w) :
    EndsIn OpInv (accept i p home w s) := by
  obtain ⟨hphase, hback, hvolt, hbase, hcf, hstart⟩ := hp
  obtain ⟨hclock, hmode, hadma⟩ := hn
  have hst := admission_none_phase ha
  have hnone := h.noFlight (by rcases hst with hst | hst <;> simp [hst]) (hasTable_of_none hc)
  obtain ⟨hhas, hdata⟩ :=
    hstart { s with cur := some i, st := p, pos := 0, ret := none, home := home, work := w } rfl rfl rfl
  refine (endsIn_next ..).2 ⟨⟨?_, hphase, hback.symm⟩, ⟨?_, ?_, ?_, ?_⟩, ⟨?_, ?_, ?_, ?_⟩,
    h.rate.of_not_knowsBase rfl rfl hbase⟩
  · rcases hhome with rfl | rfl
    · exact .inr rfl
    · exact hst
  · rintro - hv
    rw [show needsVoltage p = true by simpa [needsVoltage, or_assoc] using hv] at hvolt
    cases hvolt
  · rintro f ⟨⟩
    exact hclock rfl
  · rintro f ⟨⟩
    exact ⟨hclock rfl, fun hst => absurd hst hcf⟩
  · intro hi
    simp only [Option.some.injEq] at hi
    exact ⟨hclock (by rcases hi with rfl | rfl <;> rfl), hmode hi⟩
  · intro ht
    rw [hhas] at ht
    cases ht
  · rintro a n e ⟨⟩
    exact hadma a n e rfl
  · rintro c ⟨⟩ ht
    rw [show inTransfer p 0 = true from ht] at hdata
    cases hdata c rfl
  · intro _ t n ht
    rw [show s.tableInFlight = some (t, n) from ht] at hnone
    cases hnone

/-- Where nothing runs, an instruction is a request. -/
theorem runOp_none_opInv {i : Instr} {start next : State → Result} {s : State} (h : OpInv s) (hc : s.cur = none)
    (hstart : admission i s = none → EndsIn OpInv (start s)) : EndsIn OpInv (runOp i start next s) :=
  runOp_endsIn (fun _ _ => h) (fun _ => hstart) (fun hi => by rw [hc] at hi; cases hi)

theorem callerEvent_opInv {i : Instr} {r : Reg} {v : Word} {s : State} (h : OpInv s) :
    EndsIn OpInv (callerEvent i (regWrite r v) s) := by
  unfold callerEvent
  split
  · simp
  · rw [endsIn_next]
    split
    · exact h
    · exact h.same (by simp [Same, Held])

theorem takePwrIrq_opInv {s : State} (h : OpInv s) : OpInv (takePwrIrq s) := h.same (by simp [Same, Held])

theorem mode_opInv {s : State} {i : Instr} {p : Phase} (hi : i = .setSdrMode ∨ i = .setDdrMode) (h : OpInv s)
    (hc : s.cur = none) (ha : admission i s = none) (hp : StartsAt i p) :
    EndsIn OpInv
      (if s.h.curClkRate = none then .fault (.unwrittenField .curClkRate)
       else if s.h.baseClkRate = none then .fault (.unwrittenField .baseClkRate)
       else accept i p .idle Work.blank s) := by
  split
  · simp
  · rename_i hrate
    split
    · simp
    · rename_i hbase
      refine h.accepted hc ha (.inl rfl) hp
        ⟨fun _ => Option.isSome_iff_ne_none.2 hbase, fun _ => Option.isSome_iff_ne_none.2 hrate, ?_⟩
      rintro a n e rfl
      rcases hi with hi | hi <;> cases hi

theorem clock_opInv {s : State} {i : Instr} {p : Phase} {w : Work}
    (hi : (∃ f, i = .clkSupply f) ∨ ∃ f, i = .changeFrequency f) (h : OpInv s)
    (hc : s.cur = none) (ha : admission i s = none) (hp : StartsAt i p) :
    EndsIn OpInv
      (if s.h.baseClkRate = none then .fault (.unwrittenField .baseClkRate) else accept i p .idle w s) := by
  split
  · simp
  · rename_i hbase
    refine h.accepted hc ha (.inl rfl) hp ⟨fun _ => Option.isSome_iff_ne_none.2 hbase, ?_, ?_⟩
    · obtain ⟨f, rfl⟩ | ⟨f, rfl⟩ := hi <;> nofun
    · obtain ⟨f, rfl⟩ | ⟨f, rfl⟩ := hi <;> nofun

/-- With no operation running, an instruction is accepted, refused, or one event that no operation sees. -/
theorem exec_none_opInv {s : State} (i : Instr) (h : OpInv s) (hc : s.cur = none) : EndsIn OpInv (exec i s) := by
  cases i with
  | init =>
    exact runOp_none_opInv h hc fun ha =>
      h.accepted hc ha (.inl rfl) (.of_tableFree rfl rfl rfl rfl rfl nofun) ⟨nofun, nofun, nofun⟩
  | sendCommand c =>
    refine runOp_none_opInv h hc fun ha => h.accepted hc ha (.inl rfl)
      ⟨rfl, rfl, rfl, rfl, nofun, fun t ht hst _ => ⟨?_, fun _ _ => rfl⟩⟩ ⟨nofun, nofun, nofun⟩
    rw [hasTable_send ht (by rw [hst]; rfl), hst]
    exact Bool.and_false _
  | clkSupply f =>
    rw [exec, execClkSupply]
    exact runOp_none_opInv h hc fun ha =>
      clock_opInv (.inl ⟨f, rfl⟩) h hc ha (.of_tableFree rfl rfl rfl rfl rfl nofun)
  | setBusWidth w =>
    exact runOp_none_opInv h hc fun ha =>
      h.accepted hc ha (.inl rfl) (.of_tableFree rfl rfl rfl rfl rfl nofun) ⟨nofun, nofun, nofun⟩
  | setSdrMode =>
    rw [exec, execSetSdrMode]
    exact runOp_none_opInv h hc fun ha => mode_opInv (.inl rfl) h hc ha (.of_tableFree rfl rfl rfl rfl rfl nofun)
  | setDdrMode =>
    rw [exec, execSetDdrMode]
    exact runOp_none_opInv h hc fun ha => mode_opInv (.inr rfl) h hc ha (.of_tableFree rfl rfl rfl rfl rfl nofun)
  | modeEnable g =>
    rw [exec, execModeEnable]
    exact runOp_none_opInv h hc fun ha =>
      h.accepted hc ha (.inr rfl) (.of_tableFree rfl rfl rfl rfl rfl nofun) ⟨nofun, nofun, nofun⟩
  | changeFrequency f =>
    rw [exec, execChangeFrequency]
    exact runOp_none_opInv h hc fun ha =>
      clock_opInv (.inr ⟨f, rfl⟩) h hc ha (.of_tableFree rfl rfl rfl rfl rfl nofun)
  | buildTable a n =>
    refine runOp_none_opInv h hc fun ha => h.accepted hc ha (.inl rfl)
      ⟨rfl, rfl, rfl, rfl, nofun, fun t ht hst _ => ⟨?_, nofun⟩⟩ ⟨nofun, nofun, nofun⟩
    simp only [hasTable, ht, hst]
    rfl
  | softReset m =>
    exact runOp_none_opInv h hc fun ha =>
      h.accepted hc ha (.inl rfl) (.of_tableFree rfl rfl rfl rfl rfl nofun) ⟨nofun, nofun, nofun⟩
  | respExtract rt =>
    rw [exec, execRespExtract]
    exact runOp_none_opInv h hc fun ha =>
      h.accepted hc ha (.inl rfl) (.of_tableFree rfl rfl rfl rfl rfl nofun) ⟨nofun, nofun, nofun⟩
  | errDecode =>
    rw [exec, execErrDecode]
    exact runOp_none_opInv h hc fun ha =>
      h.accepted hc ha (.inl rfl) (.of_tableFree rfl rfl rfl rfl rfl nofun) ⟨nofun, nofun, nofun⟩
  | adma2Entry a n e =>
    rw [exec, execAdma2Entry]
    refine runOp_none_opInv h hc fun ha => ?_
    split
    · simp
    · exact h.accepted hc ha (.inl rfl)
        ⟨rfl, rfl, rfl, rfl, nofun, fun t ht _ _ => ⟨by simp [hasTable, ht], nofun⟩⟩ ⟨nofun, nofun, fun _ _ _ _ => rfl⟩
  | reserved7 => exact endsIn_refused _ _
  | reserved14 => exact endsIn_refused _ _
  | reserved15 => exact endsIn_refused _ _
  | pwrIrq => exact (endsIn_next ..).2 (takePwrIrq_opInv h)
  | wordPwrAck x b => exact (endsIn_next ..).2 (h.same (by simp [Same, Held]))
  | wordCmd x t p r =>
    rw [exec, execWordCmd]
    exact callerEvent_opInv h
  | wordTransmode m d a c =>
    rw [exec, execWordTransmode]
    exact callerEvent_opInv h
  | wordClk l hi =>
    rw [exec, execWordClk]
    exact callerEvent_opInv h
  | wordSwReset d c a =>
    rw [exec, execWordSwReset]
    exact callerEvent_opInv h
  | wordStsClear t c =>
    rw [exec, execWordStsClear]
    exact callerEvent_opInv h

/-! #### The step -/

theorem callerStep_opInv {s : State} (h : OpInv s) : EndsIn OpInv (callerStep s) := by
  obtain ⟨i, hc, hs⟩ | ⟨_, hs⟩ | ⟨r, hs⟩ | ⟨o, i, hc, _, _, _, hs⟩ := callerStep_cases s
  · obtain ⟨t, ht, hinv⟩ := exec_running_goesOn h hc
    rw [hs, ht]
    exact (endsIn_next ..).2 hinv
  · rw [hs]
    exact (endsIn_next ..).2 h
  · rw [hs]
    exact endsIn_refused _ _
  · rw [hs]
    exact exec_none_opInv i (h.same (by simp [Same, Held])) hc

theorem step_opInv {s t : State} (h : OpInv s) (ht : step s = .next t) : OpInv t := by
  obtain ⟨m, r, hs, -⟩ | ⟨e, hs⟩ | ⟨e, hs⟩ | ⟨e, hs⟩ := step_cases s
  · obtain ⟨hcfg, hst, hpos, hret, hhome, hcur, hwork, hh, -, -, hlive, hflight, -⟩ := step_outside_keeps hs ht
    exact h.same (by simp [Same, Held, *])
  · rw [hs] at ht
    cases ht
    exact h.same (by simp [Same, Held])
  · rw [hs] at ht
    cases ht
    exact takePwrIrq_opInv (h.same (by simp [Same, Held]))
  · rw [hs] at ht
    exact callerStep_opInv (h.same (by simp [Same, Held])) t ht

/-! #### Memory -/

theorem alloc_memory {s : State} (h : MemoryInv s) (n : Nat) (b : Word) (l : Nat) (z : Bool) :
    MemoryInv (alloc n b l z s) := by
  obtain ⟨hmem, hdev, hdirty⟩ := h
  unfold alloc
  cases allocAnswer n b l s with
  | none => exact ⟨hmem, hdev, hdirty⟩
  | some a =>
    cases z with
    | false => exact ⟨hmem, hdev, hdirty⟩
    | true => exact ⟨wf_fillZero hmem a n, hdev, addrsWf_addRange hdirty a n⟩

theorem entryWrite_memory {s : State} (h : MemoryInv s) (f : Nat) (tb : Word) (i : Nat) (addr : Word)
    (len attr : Half) :
    MemoryInv (entryWrite f tb i addr len attr s) := by
  obtain ⟨hmem, hdev, hdirty⟩ := h
  obtain ⟨fo, n, v, hw, -⟩ := entryWrite_cases f tb i addr len attr s
  rw [hw]
  exact ⟨wf_writeLE hmem _ n v, hdev, addrsWf_addRange hdirty _ n⟩

theorem Quiet.memory {s t : State} (hq : Quiet s t) (h : MemoryInv s) : MemoryInv t := by
  obtain ⟨-, -, -, -, hmem, hdev, hdirty, -⟩ := hq
  simpa only [MemoryInv, hmem, hdev, hdirty] using h

/-- Every write of the engine keeps memory and the set of bytes to write back in canonical form. -/
theorem Effect.memory {i : Instr} {s t : State} (he : Effect i s t) (h : MemoryInv s) : MemoryInv t := by
  cases he with
  | quiet hq | accepted _ hq | rate _ hq | caps _ _ _ hq | slots _ _ hq | event _ hq | handToDevice _ _ _ hq
  | release _ _ _ hq =>
    exact hq.memory h
  | handler ht => simpa [MemoryInv, ht] using h
  | alloc n b l z _ hq => exact hq.memory (alloc_memory h n b l z)
  | entry f tb addr len attr _ _ hq => exact hq.memory (entryWrite_memory h f tb _ addr len attr)
  | clean tb _ _ hq =>
    obtain ⟨hmem, hdev, hdirty⟩ := h
    exact hq.memory ⟨hmem, wf_splice hdev hmem _ _, addrsWf_drop hdirty _ _⟩
  | invalidate c _ _ hq =>
    obtain ⟨hmem, hdev, hdirty⟩ := h
    exact hq.memory ⟨wf_splice hmem hdev _ _, hdev, addrsWf_drop hdirty _ _⟩

theorem applyMove_memory {s : State} (m : Move) (h : MemoryInv s) : EndsIn MemoryInv (applyMove m s) := by
  obtain ⟨hmem, hdev, hdirty⟩ := h
  cases m with
  | offer o =>
    obtain ⟨_, hs⟩ | ⟨r, hs⟩ | ⟨w, _, _, _, _, _, hs⟩ := offerWord_cases o s
    · simpa only [applyMove, hs, endsIn_next] using ⟨hmem, hdev, hdirty⟩
    · simp only [applyMove, hs, endsIn_refused]
    · simpa only [applyMove, hs, endsIn_next] using ⟨hmem, hdev, hdirty⟩
  | raiseLine => exact (endsIn_next ..).2 ⟨hmem, hdev, hdirty⟩
  | setSlots q => exact (endsIn_next ..).2 ⟨hmem, hdev, hdirty⟩
  | endTransaction => exact (endsIn_next ..).2 ⟨hmem, hdev, hdirty⟩
  | deviceWrite a b => exact (endsIn_next ..).2 ⟨hmem, wf_write hdev a.isLt b, hdirty⟩
  | cpuWrite a b => exact (endsIn_next ..).2 ⟨wf_write hmem a.isLt b, hdev, addrsWf_add hdirty a.isLt⟩
  | evict a => exact (endsIn_next ..).2 ⟨hmem, wf_copyByte hdev hmem _, addrsWf_drop hdirty _ _⟩
  | refill a =>
    refine (endsIn_next ..).2 ?_
    split
    · exact ⟨hmem, hdev, hdirty⟩
    · exact ⟨wf_copyByte hmem hdev _, hdev, hdirty⟩

theorem step_memory {s t : State} (h : MemoryInv s) (ht : step s = .next t) : MemoryInv t := by
  obtain ⟨m, r, hs⟩ | ⟨_, _, _, he⟩ := step_effect ht
  · exact applyMove_memory (s := { s with env := { s.env with sched := r } }) m h t (step_outside hs ht)
  · exact he.memory h

theorem step_inv {s t : State} (h : Inv s) (ht : step s = .next t) : Inv t := by
  obtain ⟨hmemory, hcontrol, hrecord, htable, hrate⟩ := h
  obtain ⟨hcontrol', hrecord', htable', hrate'⟩ := step_opInv ⟨hcontrol, hrecord, htable, hrate⟩ ht
  exact ⟨step_memory hmemory ht, hcontrol', hrecord', htable', hrate'⟩

/-! #### The port -/

/-- The offer stays as it is, and what runs goes on, ends, or is `i` just accepted. -/
theorem Effect.port {i : Instr} {s t : State} (h : Effect i s t) :
    t.offer = s.offer ∧ (Stays s.cur t.cur ∨ (s.cur = none ∧ Stays (some i) t.cur)) := by
  cases h with
  | accepted hc h =>
    obtain ⟨-, -, -, -, -, -, -, -, -, hoffer, hcur, -⟩ := h
    exact ⟨hoffer, .inr ⟨hc, hcur⟩⟩
  | handler h => simp [h]
  | alloc n b l z _ h => simp_all [Quiet]
  | _ => simp_all [Quiet]

/-- A request, or an internal sequence (30_encoding.md R120, R121, R123). -/
def Instr.spoken (i : Instr) : Prop := i.place = .port ∨ i.place = .sequence

theorem ended_spoken {i j : Instr} {rest : List Digit} (hj : Instr.spoken j) (h : ended j rest = .ok i) :
    Instr.spoken i := by
  unfold ended at h
  split at h
  · cases h
    exact hj
  · cases h

theorem withOperand_spoken {n : Nat} {rest : List Digit} {f : Nat → Instr} {i : Instr}
    (hf : ∀ v, Instr.spoken (f v)) (h : withOperand n rest f = .ok i) : Instr.spoken i := by
  unfold withOperand at h
  split at h
  · cases h
  · exact ended_spoken (hf _) h

/-- A word with an operation code is a request or an internal sequence. -/
theorem decodeOp_spoken {ds : List Digit} {i : Instr} (h : decodeOp ds = .ok i) : Instr.spoken i := by
  unfold decodeOp at h
  split at h
  · cases h
  · split at h
    · exact ended_spoken (.inl rfl) h
    · exact withOperand_spoken (fun _ => .inl rfl) h
    · exact withOperand_spoken (fun _ => .inl rfl) h
    · exact withOperand_spoken (fun _ => .inl rfl) h
    · exact ended_spoken (.inl rfl) h
    · exact ended_spoken (.inl rfl) h
    · exact withOperand_spoken (fun _ => .inl rfl) h
    · exact ended_spoken (.inl rfl) h
    · exact withOperand_spoken (fun _ => .inr rfl) h
    · exact withOperand_spoken (fun _ => .inr rfl) h
    · exact withOperand_spoken (fun _ => .inr rfl) h
    · split at h
      · cases h
      · split at h
        · exact ended_spoken (.inr rfl) h
        · cases h
    · exact ended_spoken (.inr rfl) h
    · exact ended_spoken (.inr rfl) h
    · exact ended_spoken (.inl rfl) h
    · exact ended_spoken (.inl rfl) h

theorem internal_exposed_iff (i : Instr) :
    (isInternal i && isExposed i) = true ↔ ∃ f, i = .changeFrequency f := by
  cases i <;> simp [isInternal, Instr.place, isExposed]

/-- What a caller may offer: a word on the request port, or CHANGE_FREQUENCY (30_encoding.md R121; log 9). -/
theorem offerable_iff (o : Offer) :
    offerable o = true ↔
      o.place = .port ∨ (o.place = .sequence ∧ ∃ f, decodeAt .sequence o.digits = .ok (.changeFrequency f)) := by
  simp only [offerable, Bool.or_eq_true, Bool.and_eq_true, beq_iff_eq]
  cases decodeAt .sequence o.digits with
  | error e => simp
  | ok i => simp [← internal_exposed_iff]

/-- What a word that a caller may offer runs: what a caller may ask for, or a reserved code. -/
theorem fetched_offerable {o : Offer} {i : Instr} (ho : offerable o = true) (hf : fetched o = .ok i) :
    isExposed i = true ∨ i = .reserved7 ∨ i = .reserved14 ∨ i = .reserved15 := by
  unfold fetched at hf
  split at hf
  · cases hf
  · rename_i j hj
    split at hf
    · cases hf
    · rename_i hint
      cases hf
      obtain hp | ⟨hp, f, hf⟩ := (offerable_iff o).1 ho
      · rw [hp] at hj hint
        have hport : i.place = .port := (decodeOp_spoken hj).resolve_right (by simpa [isInternal] using hint)
        cases i <;> simp_all [Instr.place, isExposed]
      · rw [hp, hf] at hj
        cases hj
        exact .inl rfl

/-- A reserved code never gives a next state (30_encoding.md R123). -/
theorem exec_reserved {i : Instr} {s t : State} (hi : i = .reserved7 ∨ i = .reserved14 ∨ i = .reserved15) :
    exec i s ≠ .next t := by
  obtain rfl | rfl | rfl := hi <;> nofun

theorem Stays.exposed {c d : Option Instr} (h : Stays c d) (hc : ∀ i, c = some i → isExposed i = true) :
    ∀ i, d = some i → isExposed i = true := by
  rintro i rfl
  obtain h | h := h
  · exact hc i h.symm
  · cases h

/-- An instruction keeps the port where it is what a caller may ask for, or nothing runs that it could replace. -/
theorem exec_portInv {s t : State} {i : Instr} (h : PortInv s) (hi : s.cur = none → isExposed i = true)
    (ht : exec i s = .next t) : PortInv t := by
  obtain ⟨hoffer, hcur⟩ := h
  obtain ⟨ho, hc⟩ := (exec_effect i s t ht).port
  refine ⟨ho ▸ hoffer, ?_⟩
  obtain hc | ⟨hnone, hc⟩ := hc
  · exact hc.exposed hcur
  · refine hc.exposed ?_
    rintro _ ⟨⟩
    exact hi hnone

theorem callerStep_portInv {s t : State} (h : PortInv s) (ht : callerStep s = .next t) : PortInv t := by
  obtain ⟨i, hc, hs⟩ | ⟨_, hs⟩ | ⟨r, hs⟩ | ⟨o, i, hc, ho, _, hf, hs⟩ := callerStep_cases s
  · exact exec_portInv h (by simp [hc]) (hs ▸ ht)
  · rw [hs] at ht
    cases ht
    exact h
  · rw [hs] at ht
    cases ht
  · obtain ⟨hoffer, hcur⟩ := h
    rw [hs] at ht
    refine exec_portInv (s := { s with offer := none }) ⟨nofun, hcur⟩ (fun _ => ?_) ht
    exact (fetched_offerable (hoffer o ho) hf).resolve_right fun hr => exec_reserved hr ht

theorem applyMove_portInv {s : State} (m : Move) (h : PortInv s) : EndsIn PortInv (applyMove m s) := by
  cases m with
  | offer o =>
    obtain ⟨_, hs⟩ | ⟨r, hs⟩ | ⟨w, _, _, _, _, hw, hs⟩ := offerWord_cases o s
    · simpa only [applyMove, hs, endsIn_next] using h
    · simp only [applyMove, hs, endsIn_refused]
    · simp only [applyMove, hs, endsIn_next]
      refine ⟨?_, h.2⟩
      rintro _ ⟨⟩
      exact hw
  | refill a =>
    refine (endsIn_next ..).2 ?_
    split <;> exact h
  | _ => exact (endsIn_next ..).2 h

theorem step_portInv {s t : State} (h : PortInv s) (ht : step s = .next t) : PortInv t := by
  obtain ⟨m, r, _, hs⟩ | ⟨e, hs⟩ | ⟨e, hs⟩ | ⟨e, hs⟩ := step_cases s
  · exact applyMove_portInv (s := dropTurn s) m h t (hs ▸ ht)
  · rw [hs] at ht
    cases ht
    exact h
  · rw [hs] at ht
    cases ht
    simpa [PortInv] using h
  · exact callerStep_portInv (s := { s with env := e }) h (hs ▸ ht)

/-- Settles O57: the operation's part by the rules of `OpInv`, memory by what an effect writes, the port by what a word
on offer can decode to. -/
theorem stepKeepsInv : Obligations.StepKeepsInv := by
  unfold Obligations.StepKeepsInv
  exact ⟨fun _ _ => step_inv, fun _ _ => step_portInv⟩

/-- Settles O59: the phases that keep the invariant answer a next state. -/
theorem runningOperationGoesOn : Obligations.RunningOperationGoesOn := by
  unfold Obligations.RunningOperationGoesOn
  intro s i h hc
  obtain ⟨hmemory, hcontrol, hrecord, htable, hrate⟩ := h
  obtain ⟨t, ht, -⟩ := exec_running_goesOn ⟨hcontrol, hrecord, htable, hrate⟩ hc
  exact ⟨t, ht⟩

end Sys2Proof.Machine
end

section
/-! PROOFS. The statements of the family 10_state.md, fifth part: reset, the operand domain, ABORTED, the step, and
single phases and words in the default column. -/

namespace Sys2Proof.Machine

/-! ### Reset -/

/-- Settles O58: nothing runs at reset, and no list holds anything. -/
theorem resetInv : Obligations.ResetInv := by
  unfold Obligations.ResetInv
  refine ⟨⟨?_, ?_, ?_, ?_, ?_⟩, nofun, nofun⟩
  · exact ⟨⟨.nil, nofun⟩, ⟨.nil, nofun⟩, .nil, nofun⟩
  · exact ⟨.inl rfl, .inl rfl, rfl⟩
  · simp [RecordInv, State.reset]
  · exact ⟨nofun, nofun, nofun, nofun⟩
  · exact ⟨nofun, nofun, nofun, nofun⟩

/-- Settles O60, by the definition of reset; of the registers, one storage register after the other. -/
theorem resetState : Obligations.ResetState := by
  unfold Obligations.ResetState
  refine ⟨rfl, rfl, rfl, rfl, rfl, rfl, rfl, ?_, rfl, rfl, rfl⟩
  intro r hr
  cases r <;> cases hr <;> rfl

/-! ### Acceptance -/

/-- Settles O13: the admission lets the request through, and its start faults. -/
theorem unwrittenFieldFaults : Obligations.UnwrittenFieldFaults := by
  unfold Obligations.UnwrittenFieldFaults
  intro s h
  refine ⟨fun hb f => ⟨?_, ?_⟩, fun hr hc => ⟨?_, ?_⟩⟩
  · rw [exec, execClkSupply, runOp_ready h (.inr rfl) rfl, if_pos hb]
  · rw [exec, execChangeFrequency, runOp_ready h (.inr rfl) rfl, if_pos hb]
  · rw [exec, execSetSdrMode, runOp_ready h (.inl hc) rfl, if_pos hr]
  · rw [exec, execSetDdrMode, runOp_ready h (.inl hc) rfl, if_pos hr]

/-- The operand domain of SEND_COMMAND (10_state.md R26, 20_memory.md R88). -/
def InDomain (cfg : Cfg) (c : Cmd) : Prop :=
  c.index.toNat ≤ 63 ∧
  (c.dataPresent = true →
    1 ≤ c.blockCount.toNat ∧ c.blockCount.toNat ≤ 65535 ∧
    c.buf.toNat + c.blockCount.toNat * cfg.blockSize.toNat ≤ 2 ^ 32 ∧ c.buf.toNat % 4 = 0 ∧
    (isRead cfg.codes c = true →
      c.buf.toNat % cfg.cacheLine = 0 ∧ c.blockCount.toNat * cfg.blockSize.toNat % cfg.cacheLine = 0))

/-- A test that names a refusal lets through what it does not hold of. -/
theorem ite_some_eq_none {α : Type} {p : Prop} [Decidable p] {e : α} {o : Option α} :
    (if p then some e else o) = none ↔ ¬p ∧ o = none := by
  split <;> simp [*]

theorem cmdDomain_none_iff (cfg : Cfg) (c : Cmd) : cmdDomain cfg c = none ↔ InDomain cfg c := by
  unfold cmdDomain InDomain
  cases hdata : c.dataPresent with
  | false => simp
  | true =>
    simp only [ite_some_eq_none, Bool.true_eq_false, if_false]
    simp [Nat.one_le_iff_ne_zero]

/-- Settles O11: IDLE refuses by the operand domain alone. -/
theorem operandDomainOfSendCommand : Obligations.OperandDomainOfSendCommand := by
  unfold Obligations.OperandDomainOfSendCommand
  intro s c h
  refine ⟨fun hd => ?_, fun hd => ?_⟩
  · exact runOp_ready h (.inr rfl) ((cmdDomain_none_iff s.cfg c).2 hd)
  · obtain ⟨e, he⟩ := Option.ne_none_iff_exists'.1 fun hn => hd ((cmdDomain_none_iff s.cfg c).1 hn)
    refine ⟨e, runOp_refused h.1 h.not_aborted ?_⟩
    obtain ⟨_, hst, hb⟩ := h
    simp [admission, hst, hb, isConfigOp, domainError, he]

/-! ### ABORTED, the idle check, and the step -/

/-- Settles O56: in ABORTED no turn of the caller context is a step. -/
theorem abortedForever : Obligations.AbortedForever := by
  unfold Obligations.AbortedForever
  intro s ha hc
  refine ⟨fun i hi => ?_, fun t ht => ?_, _, rfl, by simp⟩
  · obtain ⟨start, next, hexec⟩ := exec_exposed hi
    rw [hexec, runOp_aborted hc ha]
  · obtain ⟨m, r, hs, _⟩ | ⟨e, hs⟩ | ⟨e, hs⟩ | ⟨e, hs⟩ := step_cases s
    · obtain ⟨-, hst, -, -, -, hcur, -, hh, -, hctl, -, -, htrace⟩ := step_outside_keeps hs ht
      exact ⟨hst.trans ha, hcur.trans hc, hctl, hh, by rw [htrace]⟩
    · rw [hs] at ht
      cases ht
      exact ⟨ha, hc, rfl, rfl, rfl⟩
    · rw [hs] at ht
      cases ht
      exact ⟨ha, hc, rfl, rfl, rfl⟩
    · have hidle : callerStep { s with env := e } = .next { s with env := e } := by
        obtain ⟨i, hi, _⟩ | ⟨_, h⟩ | ⟨r, h⟩ | ⟨o, i, _, _, hna, _, _⟩ := callerStep_cases { s with env := e }
        · rw [show s.cur = some i from hi] at hc
          cases hc
        · exact h
        · rw [hs, h] at ht
          cases ht
        · exact absurd ha hna
      rw [hs, hidle] at ht
      cases ht
      exact ⟨ha, hc, rfl, rfl, rfl⟩

theorem exec_sendCommand_running {s : State} {c : Cmd} (hc : s.cur = some (.sendCommand c)) :
    exec (.sendCommand c) s = sendCommandStep c s := by
  rw [exec, execSendCommand, runOp_running hc]

/-- Settles O30: SC.1 at its two positions. -/
theorem sendIdleCheck : Obligations.SendIdleCheck := by
  unfold Obligations.SendIdleCheck
  intro s c
  have hidle : s.cur = some (.sendCommand c) → s.st = .sc1 → exec (.sendCommand c) s = .next (scIdle s) := by
    intro hc hst
    rw [exec_sendCommand_running hc]
    simp only [sendCommandStep, hst]
  refine ⟨?_, ?_, ?_, ?_⟩
  · rintro ⟨hc, hst, hpos⟩ hlines
    have : linesIdle s.cfg.bits (readValue .presentState s) = true := by simpa [linesIdle] using hlines
    rw [hidle hc hst, scIdle, if_pos hpos, this]
    rfl
  · rintro ⟨hc, hst, hpos⟩ hlines
    have : linesIdle s.cfg.bits (readValue .presentState s) = false := by simpa [linesIdle] using hlines
    rw [hidle hc hst, scIdle, if_pos hpos, this]
    rfl
  · rintro ⟨hc, hst, hpos⟩ hn
    rw [hidle hc hst, scIdle, if_neg (by simp [hpos]), if_neg hn, ← hst]
    rfl
  · rintro ⟨hc, hst, hpos⟩ hret hn
    rw [hidle hc hst, scIdle, if_neg (by simp [hpos]), if_pos hn, finish_port _ (by exact hret)]
    rfl

/-- In the default column every digit is the operation code of its own row (30_encoding.md R120, R121, R123). -/
theorem recoded_default (o : Offer) : recoded Codes.default o = .ok o := by
  obtain ⟨place, digits⟩ := o
  cases digits with
  | nil => rfl
  | cons d ds =>
    have hd : ∀ d : Digit, Codes.default.ops.idxOf? d = some d.toNat := by decide
    simp [recoded, hd]

/-- Settles O5, by the turn at the head of the schedule. -/
theorem stepRunsInstruction : Obligations.StepRunsInstruction := by
  unfold Obligations.StepRunsInstruction
  refine ⟨?_, ?_, ?_, ?_, ?_⟩
  · intro s i r hs hc
    simp [step, hs, callerStep, hc, dropTurn]
  · intro s i o r hs hc ha ho hd hport hirq
    have hf : fetched o = .ok i := by simp [fetched, hd, hport]
    have hw : mustWait i (dropTurn s) = false := by
      by_cases hi : i = .pwrIrq
      · simp [mustWait, irqDeliverable, hirq hi]
      · simp [mustWait, hi]
    simp [step, hs, callerStep, hc, ho, ha, hf, hw]
  · intro s r hs hp hm
    simp [step, hs, handlerStep, irqDeliverable, hp, hm, dropTurn]
  · intro s i hs hc hp
    simp [step, hs, freeStep, irqDeliverable, hp, callerStep, hc]
  · intro s o r hs hcodes hc ho ha
    have hstep : step s = offerWord o { s with env := { s.env with sched := r } } := by
      simp [step, hs, dropTurn, applyMove]
    have hrec : recoded s.cfg.codes o = .ok o := hcodes ▸ recoded_default o
    have hword : step s = if offerable o then .next { s with offer := some o, env := { s.env with sched := r } }
        else .refused .notARequest := by
      simp [hstep, offerWord, ha, hc, ho, hrec]
    refine ⟨fun hplace => ?_, fun hplace hne => ?_⟩
    · rw [hword, if_pos ((offerable_iff o).2 hplace)]
    · refine hword.trans (if_neg fun hoff => ?_)
      obtain hp | ⟨hp, f, hf⟩ := (offerable_iff o).1 hoff
      · exact hplace hp
      · exact hne f (hp ▸ hf)

/-! ### Words of the default column -/

theorem setWidth_byte (v : Byte) : v.setWidth 32 &&& 0xFF = v.setWidth 32 := by
  refine (and_low8 _).trans ?_
  simp

theorem setWidth_half (v : Half) : v.setWidth 32 &&& 0xFFFF = v.setWidth 32 := by
  refine (and_low16 _).trans ?_
  simp

theorem wordCmdValue_default (x : BitVec 6) (t : BitVec 2) (p : Bool) (r : BitVec 2) :
    wordCmdValue Bits.default x t p r = 0#2 ++ x ++ t ++ BitVec.ofBool p ++ 0#3 ++ r := by
  refine BitVec.eq_of_getLsbD_eq fun k hk => ?_
  rw [BitVec.getLsbD_append, BitVec.getLsbD_append, BitVec.getLsbD_append, BitVec.getLsbD_append, BitVec.getLsbD_append]
  interval_cases k <;> simp [wordCmdValue, cmdWord, cmdFlags, Bits.default]

theorem clkFields_default (l : Byte) (h : BitVec 2) : clkFields Bits.default l h = l ++ h ++ 1#6 := by
  refine BitVec.eq_of_getLsbD_eq fun k hk => ?_
  rw [BitVec.getLsbD_append, BitVec.getLsbD_append]
  interval_cases k <;> simp [clkFields, Bits.default]

/-- The first clock word carries no volatile bit. -/
theorem clkWord_stable (l : Byte) (h : BitVec 2) :
    (l ++ h ++ 1#6).setWidth 32 &&& ~~~(Bits.default.clkVolatile.setWidth 32) = (l ++ h ++ 1#6).setWidth 32 := by
  refine BitVec.eq_of_getLsbD_eq fun k hk => ?_
  rw [BitVec.getLsbD_and, BitVec.getLsbD_setWidth, BitVec.getLsbD_append, BitVec.getLsbD_append]
  interval_cases k <;> simp [Bits.default]

theorem cmdWord_default (i : Half) (f : Byte) :
    (cmdWord Bits.default i f).setWidth 32 = ((i &&& 0xFF).setWidth 32 <<< 8) ||| f.setWidth 32 := by
  refine BitVec.eq_of_getLsbD_eq fun k hk => ?_
  interval_cases k <;> simp [cmdWord, Bits.default]

theorem wordSwResetValue_default (d c a : Bool) :
    wordSwResetValue Bits.default d c a = 0#5 ++ BitVec.ofBool d ++ BitVec.ofBool c ++ BitVec.ofBool a := by
  cases d <;> cases c <;> cases a <;> rfl

theorem ackFields_default (x b : Bool) :
    ackFields Bits.default x b = 0#29 ++ BitVec.ofBool x ++ 0#1 ++ BitVec.ofBool b := by
  cases x <;> cases b <;> rfl

theorem wordTransmodeValue_default (m d : Bool) :
    (wordTransmodeValue Bits.default m d m m).setWidth 32 =
      if m then (if d then 0x3B else 0x2B) else (if d then 0x11 else 0x01) := by
  cases m <;> cases d <;> rfl

theorem transModeWord_default (n : Word) (read : Bool) :
    transModeWord Bits.default n read =
      (if 1 < n.toNat then 0x002A else 0) ||| (if read then 0x0010 else 0) ||| 0x0001 := rfl

/-! ### Register writes, as updates of the state -/

/-- A write to a storage register but CLK_CTRL and CMD sets that register and is recorded; nothing else changes. -/
theorem regWrite_storage {r : Reg} (hr : r.storage = true) (hclk : r ≠ .clkCtrl) (hcmd : r ≠ .cmd) (v : Word)
    (s : State) :
    regWrite r v s =
      { s with ctl := s.ctl.put r (v &&& r.bits), trace := .caller (.regWrite r (v &&& r.bits)) :: s.trace } := by
  simp [regWrite, emit, written_storage _ _ _ hr hclk, hcmd]

/-- A write to CMD starts a transaction besides (10_state.md R63). -/
theorem regWrite_cmd (v : Half) (s : State) :
    regWrite .cmd (v.setWidth 32) s =
      { s with
        ctl := s.ctl.put .cmd (v.setWidth 32), inFlight := some v
        trace := .caller (.regWrite .cmd (v.setWidth 32)) :: s.trace } := by
  have hv : v.setWidth 32 &&& Reg.bits .cmd = v.setWidth 32 := setWidth_half v
  simp [regWrite, emit, hv, written_cmd]

theorem callerEvent_next {i : Instr} {f : State → State} {s : State} (hd : domainError s.cfg i = none)
    (ha : s.st ≠ .aborted) : callerEvent i f s = .next (f s) := by
  simp [callerEvent, hd, ha]

theorem callerEvent_refused {i : Instr} {f : State → State} {s : State} {e : DomainError}
    (hd : domainError s.cfg i = some e) : callerEvent i f s = .refused (.outsideDomain e) := by
  simp [callerEvent, hd]

/-- Settles O49: each word's value in the default column, and the one write it stands for. -/
theorem hardwareWordEvents : Obligations.HardwareWordEvents := by
  unfold Obligations.HardwareWordEvents
  rintro s ⟨hb, -, -⟩ ha
  refine ⟨?_, ?_, ?_, ?_, ?_, ?_, ?_, ?_⟩
  · intro x t p r
    rw [exec, execWordCmd, callerEvent_next rfl ha, hb, wordCmdValue_default, regWrite_cmd]
  · intro m d
    have hbits : ∀ v : Half, v.setWidth 32 &&& Reg.bits .transmode = v.setWidth 32 := setWidth_half
    rw [exec, execWordTransmode, callerEvent_next (by simp [domainError]) ha, hb,
      regWrite_storage (r := .transmode) rfl nofun nofun, hbits, wordTransmodeValue_default]
  · intro m d a c hne
    rw [exec, execWordTransmode, callerEvent_refused (e := .notProduced) (by simp [domainError, hne])]
  · intro l h
    have hv : (l ++ h ++ 1#6).setWidth 32 &&& Reg.bits .clkCtrl = (l ++ h ++ 1#6).setWidth 32 := setWidth_half _
    rw [exec, execWordClk, callerEvent_next rfl ha, hb, clkFields_default]
    simp only [regWrite, emit, hv, hb, Ctl.written, clkWord_stable]
    rfl
  · intro d c a
    have hv : ∀ v : Byte, v.setWidth 32 &&& Reg.bits .swReset = v.setWidth 32 := setWidth_byte
    rw [exec, execWordSwReset, callerEvent_next rfl ha, hb, wordSwResetValue_default]
    simp only [regWrite, emit, hv, hb, Ctl.written]
    cases d <;> cases c <;> cases a <;> rfl
  · intro x b
    rw [exec, execWordPwrAck, hb, ackFields_default]
    rfl
  · intro b
    rw [exec, execWordStsClear, callerEvent_next (by cases b <;> rfl) ha, hb]
    simp only [regWrite, emit, hb, Ctl.written]
    cases b <;> rfl
  · intro b
    rw [exec, execWordStsClear, callerEvent_refused (e := .notProduced) (by simp [domainError])]

/-- Settles O32, position by position of SC.4 and SC.5. -/
theorem sendSetupAndIssue : Obligations.SendSetupAndIssue := by
  unfold Obligations.SendSetupAndIssue
  rintro s c ⟨hb, hk, -⟩
  refine ⟨?_, ?_, ?_, ?_, ?_, ?_, ?_, ?_, ?_⟩
  · rintro ⟨hc, hst, hpos⟩ hdata
    rw [exec_sendCommand_running hc]
    simp [sendCommandStep, hst, scData, hpos, hdata, goTo]
  · rintro ⟨hc, hst, hpos⟩ hdata
    rw [exec_sendCommand_running hc]
    simp [sendCommandStep, hst, scData, hpos, hdata, call]
  · rintro ⟨hc, hst, hpos⟩
    rw [exec_sendCommand_running hc]
    simp [sendCommandStep, hst, scData, hpos, hb, hk, isRead, transModeWord_default, Codes.default]
  · rintro ⟨hc, hst, hpos⟩
    rw [exec_sendCommand_running hc]
    simp only [sendCommandStep, hst, scData, hpos]
  · rintro ⟨hc, hst, hpos⟩
    rw [exec_sendCommand_running hc]
    have hn : (c.blockCount.setWidth 16).setWidth 32 = BitVec.ofNat 32 (c.blockCount.toNat % 2 ^ 16) := by
      apply BitVec.eq_of_toNat_eq
      simp
    simp only [sendCommandStep, hst, scData, hpos, hn]
  · rintro t ⟨hc, hst, hpos⟩ ht
    rw [exec_sendCommand_running hc]
    simp only [sendCommandStep, hst, scData, hpos, ht]
  · rintro ⟨hc, hst, hpos⟩
    rw [exec_sendCommand_running hc]
    simp only [sendCommandStep, hst, scData, hpos]
  · rintro ⟨hc, hst, hpos⟩
    rw [exec_sendCommand_running hc]
    have hv : c.argument &&& Reg.bits .arg = c.argument := and_all32 _
    simp only [sendCommandStep, hst, scIssue, hpos, if_true, regWrite_storage (r := .arg) rfl nofun nofun, hv, goTo]
  · rintro ⟨hc, hst, hpos⟩
    rw [exec_sendCommand_running hc]
    simp only [sendCommandStep, hst, scIssue, hpos, Nat.one_ne_zero, if_false, hb, regWrite_cmd]
    rw [cmdWord_default]
    rfl

/-! ### What a register read gives -/

/-- A write to another register but SW_RESET puts something there, or does nothing. -/
theorem written_cases (b : Bits) (c : Ctl) {q : Reg} (v : Word) (hq : q ≠ .swReset) :
    (∃ w, c.written b q v = c.put q w) ∨ c.written b q v = c := by
  cases q with
  | swReset => exact absurd rfl hq
  | presentState | resp0 | resp1 | resp2 | resp3 | caps1 | caps2 => exact .inr rfl
  | _ => exact .inl ⟨_, rfl⟩

theorem written_ne (b : Bits) (c : Ctl) {q r : Reg} (v : Word) (hq : q ≠ .swReset) (hne : q ≠ r) :
    (c.written b q v).get r = c.get r ∧ (c.written b q v).known r = c.known r := by
  obtain ⟨w, h⟩ | h := written_cases b c v hq
  · rw [h]
    exact ⟨get_put_ne c w hne.symm, by simp [known_put, hne.symm]⟩
  · rw [h]
    exact ⟨rfl, rfl⟩

theorem volatileBits_storage (b : Bits) {r : Reg} (h : r.storage = true) (hc : r ≠ .clkCtrl) :
    r.volatileBits b = 0 := by
  simp [Reg.volatileBits, h, hc]

/-- Of a known register a read answers, outside its volatile bits, what it holds. -/
theorem readValue_known {r : Reg} {s : State} (h : s.ctl.known r = true) :
    readValue r s &&& ~~~(r.volatileBits s.cfg.bits) = s.ctl.get r &&& ~~~(r.volatileBits s.cfg.bits) := by
  simp only [readValue, drawnBits, h, if_true]
  ext k hk
  simp
  cases ((r.volatileBits s.cfg.bits)[k]) <;> simp

/-- Of an unspecified register a read answers a draw. -/
theorem readValue_unknown {r : Reg} {s : State} (h : s.ctl.known r = false) :
    readValue r s = drawValue r.number s &&& r.bits := by
  have hz : s.ctl.get r &&& ~~~r.bits = 0 := by
    rw [← get_width s.ctl r, BitVec.and_assoc]
    simp
  simp [readValue, drawnBits, h, hz]

/-- A write of RESET_ALL makes every storage register unspecified (70_reset_and_hazards.md R401; log 26). -/
theorem written_resetAll (b : Bits) (c : Ctl) {v : Word} (hv : v &&& b.resetAll.setWidth 32 ≠ 0) :
    c.written b .swReset (v &&& Reg.bits .swReset) = (c.put .swReset (v &&& Reg.bits .swReset)).forget := by
  have hreset : Reg.bits .swReset &&& b.resetAll.setWidth 32 = b.resetAll.setWidth 32 :=
    (BitVec.and_comm _ _).trans (setWidth_byte b.resetAll)
  have h : v &&& Reg.bits .swReset &&& b.resetAll.setWidth 32 ≠ 0 := by rwa [BitVec.and_assoc, hreset]
  simp only [Ctl.written, h, ne_eq, not_false_eq_true, if_true]

/-- Settles O51: what a known register answers, what an unspecified one does, and what a write leaves. -/
theorem registerReadModel : Obligations.RegisterReadModel := by
  unfold Obligations.RegisterReadModel
  intro s r q v
  refine ⟨?_, ?_, ?_, ?_, readValue_volatile s, ?_, fun hne => by simp [get_put_ne _ _ hne]⟩
  · intro hr hclk
    have hctl : (regWrite r v s).ctl = s.ctl.put r (v &&& r.bits) := by simp [written_storage _ _ _ hr hclk]
    have hread := readValue_known (r := r) (s := regWrite r v s) (by rw [hctl, known_put]; simp)
    rw [hctl, get_put_same, volatileBits_storage _ hr hclk] at hread
    simpa [and_all32, BitVec.and_assoc] using hread
  · have hread := readValue_known (r := .clkCtrl) (s := regWrite .clkCtrl v s) (by simp [Ctl.written, known_put])
    have hvol : Reg.volatileBits s.cfg.bits .clkCtrl = s.cfg.bits.clkVolatile.setWidth 32 := rfl
    simp only [regWrite_fields, hvol, Ctl.written, get_put_same] at hread
    rw [hread]
    have hbits : Reg.bits .clkCtrl = 0xFFFF := rfl
    rw [hbits]
    ext k hk
    simp only [BitVec.getElem_and, BitVec.getElem_or, BitVec.getElem_not]
    cases (s.cfg.bits.clkVolatile.setWidth 32)[k] <;> cases (0xFFFF : Word)[k] <;> simp
  · intro hr hne hq hk
    obtain ⟨hget, hknown⟩ := written_ne s.cfg.bits s.ctl (v &&& q.bits) hq hne
    have hread := readValue_known (r := r) (s := regWrite q v s) (by simp [hknown, hk])
    simpa [hget] using hread
  · intro hr hv
    refine readValue_unknown (s := regWrite .swReset v s) ?_
    simp [written_resetAll _ _ hv, hr]
  · have hwidth := get_width s.ctl .nrmlIntSts
    simp only [regWrite_fields, Ctl.written, get_put_same]
    rw [← hwidth]
    ext k hk
    simp only [BitVec.getElem_and, BitVec.getElem_not]
    cases (Reg.bits .nrmlIntSts)[k] <;> simp

end Sys2Proof.Machine
end

section
/-! PROOFS. The statements of the family 20_memory.md: a second request while an operation runs, the cleanup and the
final status of SEND_COMMAND, and the stores of BUILD_TABLE one by one. -/

namespace Sys2Proof.Machine

/-! ### A second request -/

/-- Settles O10: an operation is run by `runOp`, the port by `offerWord`, and both look at the running one first. -/
theorem secondRequestRefused : Obligations.SecondRequestRefused := by
  unfold Obligations.SecondRequestRefused
  refine ⟨?_, ?_⟩
  · intro s i j hc hne hi
    obtain ⟨start, next, hexec⟩ := exec_exposed hi
    rw [hexec, runOp_busy hc hne.symm]
  · intro s j o r hs hc ha
    simp [step, hs, applyMove, offerWord, ha, hc]

/-! ### SC.10 and SC.11 -/

/-- R270, as the words order it: a decoded kind, the command poll that ran out, the transfer poll, SUCCESS. -/
theorem scStatus_eq {s : State} {k : Status}
    (h : s.work.hw = some k ∨ s.work.hw = none ∧ s.work.cmdTo = true ∧ k = .cmdTimeout ∨
      s.work.hw = none ∧ s.work.cmdTo = false ∧ s.work.transTo = true ∧ k = .transTimeout ∨
      s.work.hw = none ∧ s.work.cmdTo = false ∧ s.work.transTo = false ∧ k = .success) : scStatus s = k := by
  obtain hk | ⟨hk, hcmd, rfl⟩ | ⟨hk, hcmd, htrans, rfl⟩ | ⟨hk, hcmd, htrans, rfl⟩ := h
  · simp [scStatus, finalStatus, hk]
  · simp [scStatus, finalStatus, hk, hcmd]
  · simp [scStatus, finalStatus, hk, hcmd, htrans]
  · simp [scStatus, finalStatus, hk, hcmd, htrans]

/-- Settles O38: SC.10 with and without data, and the three ways of SC.11. -/
theorem sendCleanupAndEnd : Obligations.SendCleanupAndEnd := by
  unfold Obligations.SendCleanupAndEnd
  intro s c k hk
  have hstatus := scStatus_eq hk
  have hcleanup : s.cur = some (.sendCommand c) → s.st = .sc10 →
      exec (.sendCommand c) s = .next (scCleanup c s) := by
    intro hc hst
    rw [exec_sendCommand_running hc]
    simp only [sendCommandStep, hst]
  have hend : s.cur = some (.sendCommand c) → s.st = .sc11 → exec (.sendCommand c) s = scEnd c s := by
    intro hc hst
    rw [exec_sendCommand_running hc]
    simp only [sendCommandStep, hst]
  refine ⟨?_, ?_, ?_, ?_, ?_⟩
  · rintro ⟨hc, hst, -⟩ hdata
    rw [hcleanup hc hst, scCleanup, if_pos hdata]
    rfl
  · rintro ⟨hc, hst, -⟩ hdata
    rw [hcleanup hc hst, scCleanup, if_neg (by simp [hdata])]
    rfl
  · rintro ⟨hc, hst, hpos⟩ hdata hread hsucc
    rw [hend hc hst, scEnd, if_pos ⟨hpos, hstatus.trans hsucc, hdata, hread⟩, ← hst]
    rfl
  · rintro t q ⟨hc, hst, hpos⟩ hret hdata ht hq
    have hno : ¬(s.pos = 0 ∧ scStatus s = .success ∧ c.dataPresent = true ∧ isRead s.cfg.codes c = true) := by
      rintro ⟨hzero, hsucc, -, hread⟩
      obtain h | ⟨-, h | h⟩ := hq
      · omega
      · simp [h] at hread
      · exact h (hstatus.symm.trans hsucc)
    rw [hend hc hst, scEnd, if_neg hno, if_pos hdata, hstatus]
    simp only [ht]
    rw [finish_port k (s := free t s) hret]
    rfl
  · rintro ⟨hc, hst, hpos⟩ hret hdata
    rw [hend hc hst, scEnd, if_neg (by simp [hdata]), if_neg (by simp [hdata]), hstatus, finish_port k hret]

/-! ### What a store leaves in memory -/

theorem add_ofNat_succ (a : Word) (k : Nat) : a + BitVec.ofNat 32 (k + 1) = a + 1 + BitVec.ofNat 32 k := by
  rw [Nat.add_comm, BitVec.ofNat_add, ← BitVec.add_assoc]
  rfl

/-- Inside its range a store leaves the bytes of its value, least significant first (20_memory.md R84). -/
theorem read_writeLE_inside (m : Memory) (a : Word) {n k : Nat} (v : Word) (hn : n ≤ 2 ^ 32) (hk : k < n) :
    (m.writeLE a n v).read (a + BitVec.ofNat 32 k).toNat = some ((v >>> (8 * k)).setWidth 8) := by
  induction n generalizing m a v k with
  | zero => omega
  | succ n ih =>
    rw [Memory.writeLE]
    cases k with
    | zero =>
      rw [read_writeLE_outside]
      · simp [read_write_same]
      · intro j hj
        rw [← add_ofNat_succ]
        simp only [BitVec.toNat_add, BitVec.toNat_ofNat]
        omega
    | succ k =>
      have hbyte : v >>> (8 * (k + 1)) = v >>> 8 >>> (8 * k) := by
        rw [← BitVec.shiftRight_add, Nat.mul_succ, Nat.add_comm]
      rw [add_ofNat_succ, hbyte, ih _ _ _ (by omega) (by omega)]

theorem mem_addrAddRange (d : List Nat) (a : Word) (n x : Nat) :
    x ∈ addrAddRange d a n ↔ x ∈ d ∨ ∃ k, k < n ∧ x = (a + BitVec.ofNat 32 k).toNat := by
  induction n generalizing d a with
  | zero => simp [addrAddRange]
  | succ n ih =>
    have hzero : a + BitVec.ofNat 32 0 = a := by simp
    rw [addrAddRange, ih, mem_addrAdd, Nat.exists_lt_succ_left, hzero]
    simp only [add_ofNat_succ]
    tauto

/-- One store of `n` bytes, as a whole. -/
theorem stored_of_writeLE {a : Word} {n : Nat} {v : Word} {s u : State} (hn : n ≤ 2 ^ 32)
    (hmem : u.mem = s.mem.writeLE a n v) (hdirty : u.dirty = addrAddRange s.dirty a n) : Stored a n v s u :=
  ⟨fun _ hk => hmem ▸ read_writeLE_inside s.mem a v hn hk, fun x hx => hmem ▸ read_writeLE_outside s.mem a n v x hx,
    fun x => hdirty ▸ mem_addrAddRange s.dirty a n x⟩

/-! ### BUILD_TABLE, one event at a time -/

/-- In its three phases, alone or nested, a running BUILD_TABLE performs its next event. -/
theorem exec_table_running {i : Instr} {s : State} (hi : runsTable i = true) (hc : s.cur = some i)
    (hp : s.st = .bt1 ∨ s.st = .bt2 ∨ s.st = .bt3) : exec i s = buildTableStep s := by
  cases i with
  | sendCommand c =>
    rw [exec_sendCommand_running hc]
    obtain h | h | h := hp <;> simp only [sendCommandStep, h]
  | buildTable addr len => exact runOp_running hc
  | _ => cases hi

theorem exec_table_entry {i : Instr} {s : State} {t : Word} (hi : runsTable i = true) (hc : s.cur = some i)
    (hst : s.st = .bt2) (ht : s.work.table = some t) : exec i s = .next (btEntry t s) := by
  rw [exec_table_running hi hc (.inr (.inl hst))]
  simp only [buildTableStep, hst, ht]

theorem exec_table_clean {i : Instr} {s : State} {t : Word} (hi : runsTable i = true) (hc : s.cur = some i)
    (hst : s.st = .bt3) (ht : s.work.table = some t) : exec i s = .next (btClean t s) := by
  rw [exec_table_running hi hc (.inr (.inr hst))]
  simp only [buildTableStep, hst, ht]

/-- The store of the field at position `q` of the entry BT.2 stands at. -/
def btStore (q : Nat) (t : Word) (s : State) : State :=
  entryWrite q t s.work.idx s.work.addr
    ((entryLen s.cfg.maxLine s.work.count s.work.idx s.work.rem).setWidth 16)
    (entryAttr s.cfg.entry (decide (s.work.idx + 1 = s.work.count))) s

theorem btEntry_field {t : Word} {s : State} (hq : s.pos < 2) :
    btEntry t s = goTo .bt2 (s.pos + 1) (btStore s.pos t s) := if_pos hq

theorem btEntry_next {t : Word} {s : State} (hq : s.pos = 2) (hn : s.work.idx + 1 ≠ s.work.count) :
    btEntry t s =
      goTo .bt2 0
        { btStore 2 t s with
          work := { s.work with
            idx := s.work.idx + 1, addr := s.work.addr + s.cfg.maxLine, rem := s.work.rem - s.cfg.maxLine } } := by
  simp [btEntry, btStore, hq, hn]

theorem btEntry_last {t : Word} {s : State} (hq : s.pos = 2) (hn : s.work.idx + 1 = s.work.count) :
    btEntry t s = goTo .bt3 0 (btStore 2 t s) := by
  simp [btEntry, btStore, hq, hn]

section
variable {t : Word} {s : State} (hl : s.cfg.entry = EntryLayout.default)
include hl

/-! The three fields in the default layout (30_encoding.md R140, R141). -/

theorem btStore_addr : btStore 0 t s = memWrite (entryAddr t s.work.idx 4) 4 s.work.addr s := by
  simp only [btStore, entryWrite, hl, EntryLayout.default]

theorem btStore_len :
    btStore 1 t s =
      memWrite (entryAddr t s.work.idx 2) 2
        (((entryLen s.cfg.maxLine s.work.count s.work.idx s.work.rem).setWidth 16).setWidth 32) s := by
  simp only [btStore, entryWrite, hl, EntryLayout.default]

theorem btStore_attr :
    btStore 2 t s =
      memWrite (entryAddr t s.work.idx 0) 2 (if s.work.idx + 1 = s.work.count then 0x0023 else 0x0021) s := by
  simp only [btStore, entryWrite, hl, entryAttr_default, decide_eq_true_eq]
  split <;> rfl

end

/-- Settles O26: the three stores of an entry in the default layout, and the clean. -/
theorem tableEntrySteps : Obligations.TableEntrySteps := by
  unfold Obligations.TableEntrySteps
  intro s i t hl hi hc ht
  refine ⟨?_, ?_, ?_, ?_, ?_⟩
  · intro hst hpos
    refine ⟨_, exec_table_entry hi hc hst ht, ?_⟩
    rw [btEntry_field (by omega), hpos, btStore_addr hl, ← hst]
    exact ⟨rfl, stored_of_writeLE (by omega) rfl rfl⟩
  · intro v hv hst hpos
    have hlen : ((entryLen s.cfg.maxLine s.work.count s.work.idx s.work.rem).setWidth 16).setWidth 32 = v := by
      apply BitVec.eq_of_toNat_eq
      simp only [BitVec.toNat_setWidth, entryLen, hv]
      omega
    refine ⟨_, exec_table_entry hi hc hst ht, ?_⟩
    rw [btEntry_field (by omega), hpos, btStore_len hl, hlen, ← hst]
    exact ⟨rfl, stored_of_writeLE (by omega) rfl rfl⟩
  · intro hst hpos hn
    refine ⟨_, exec_table_entry hi hc hst ht, ?_⟩
    rw [btEntry_next hpos (by omega), btStore_attr hl, if_neg (by omega), ← hst]
    exact ⟨rfl, stored_of_writeLE (by omega) rfl rfl⟩
  · intro hst hpos hn
    refine ⟨_, exec_table_entry hi hc hst ht, ?_⟩
    rw [btEntry_last hpos hn, btStore_attr hl, if_pos hn]
    exact ⟨rfl, stored_of_writeLE (by omega) rfl rfl⟩
  · intro hst
    exact ⟨exec_table_clean hi hc hst ht, read_splice s.dev s.mem t.toNat (8 * s.work.count)⟩

end Sys2Proof.Machine
end

section
/-! PROOFS. The statements of the family 20_memory.md, second part: a whole BUILD_TABLE. The allocation, the loop over the
entries and the clean are stated for BUILD_TABLE alone and nested. -/

namespace Sys2Proof.Machine

/-! ### Several turns -/

theorem execs_succ {n : Nat} {i : Instr} {s t : State} (h : exec i s = .next t) : execs (n + 1) i s = execs n i t := by
  simp [execs, h]

theorem execs_add {m n : Nat} {i : Instr} {s t : State} (h : execs m i s = .next t) :
    execs (m + n) i s = execs n i t := by
  induction m generalizing s with
  | zero => cases h; rw [Nat.zero_add]
  | succ m ih =>
    rw [execs] at h
    cases hs : exec i s with
    | next u =>
      rw [hs] at h
      rw [Nat.add_right_comm, execs_succ hs, ih h]
    | fault f => simp [hs] at h
    | refused r => simp [hs] at h

/-! ### Stores by their range -/

/-- Of the bytes the CPU side holds and of those still to be written back, `u` differs from `s` in `lo .. hi - 1` alone. -/
def WritesIn (lo hi : Nat) (s u : State) : Prop :=
  ∀ x, ¬(lo ≤ x ∧ x < hi) → u.mem.read x = s.mem.read x ∧ (x ∈ u.dirty ↔ x ∈ s.dirty)

theorem WritesIn.trans {lo hi lo' hi' : Nat} {s u v : State} (h : WritesIn lo hi s u) (h' : WritesIn lo' hi' u v)
    {l r : Nat} (hlo : l ≤ lo ∧ l ≤ lo') (hhi : hi ≤ r ∧ hi' ≤ r) : WritesIn l r s v := fun x hx =>
  have hsu := h x (by omega)
  have huv := h' x (by omega)
  ⟨huv.1.trans hsu.1, huv.2.trans hsu.2⟩

theorem WritesIn.mono {lo hi l r : Nat} {s u : State} (h : WritesIn lo hi s u) (hlo : l ≤ lo) (hhi : hi ≤ r) :
    WritesIn l r s u := fun x hx => h x (by omega)

/-- The addresses of a range that does not pass 2^32. -/
theorem toNat_add_ofNat {a : Word} {n k : Nat} (hfit : a.toNat + n ≤ 2 ^ 32) (hk : k < n) :
    (a + BitVec.ofNat 32 k).toNat = a.toNat + k := by
  simp only [BitVec.toNat_add, BitVec.toNat_ofNat]
  omega

theorem Stored.read {a : Word} {n k : Nat} {v : Word} {s u : State} (h : Stored a n v s u)
    (hfit : a.toNat + n ≤ 2 ^ 32) (hk : k < n) : u.mem.read (a.toNat + k) = some ((v >>> (8 * k)).setWidth 8) := by
  rw [← toNat_add_ofNat hfit hk]
  exact h.1 k hk

theorem Stored.writesIn {a : Word} {n : Nat} {v : Word} {s u : State} (h : Stored a n v s u)
    (hfit : a.toNat + n ≤ 2 ^ 32) : WritesIn a.toNat (a.toNat + n) s u := by
  intro x hx
  obtain ⟨-, hread, hdirty⟩ := h
  have hout : ∀ k, k < n → x ≠ (a + BitVec.ofNat 32 k).toNat := by
    intro k hk
    rw [toNat_add_ofNat hfit hk]
    omega
  refine ⟨hread x hout, (hdirty x).trans (or_iff_left ?_)⟩
  rintro ⟨k, hk, rfl⟩
  exact hout k hk rfl

theorem stored_memWrite {a : Word} {n : Nat} (v : Word) (s : State) (hn : n ≤ 2 ^ 32) :
    Stored a n v s (memWrite a n v s) :=
  stored_of_writeLE hn rfl rfl

/-! ### The allocation -/

/-- An answer that keeps the contract of R224 is taken. -/
theorem allocAnswer_of_contract {n len : Nat} {buf t : Word} {s : State} (hans : Answers s (some t))
    (halign : t.toNat % s.cfg.descAlign = 0) (hfit : t.toNat + n ≤ 2 ^ 32)
    (hbuf : t.toNat + n ≤ buf.toNat ∨ buf.toNat + len ≤ t.toNat)
    (hlive : ∀ b ∈ s.live, t.toNat + n ≤ b.1.toNat ∨ b.1.toNat + b.2 ≤ t.toNat) :
    allocAnswer n buf len s = some t := by
  have hok : allocOk t n buf len s = true := by
    simpa [allocOk, apart, halign, hbuf] using ⟨hfit, fun a b => hlive (a, b)⟩
  simp only [Answers] at hans
  simp only [allocAnswer]
  cases hnext : s.env.allocs <;> rw [hnext] at hans <;> simp only [← hans, hok, if_true]

theorem alloc_writesIn {n l : Nat} {b t : Word} {z : Bool} {s : State} (h : allocAnswer n b l s = some t) :
    WritesIn t.toNat (t.toNat + n) s (alloc n b l z s) := by
  have hfit := allocAnswer_fits h
  cases z with
  | false =>
    have hmem : (alloc n b l false s).mem = s.mem := by simp [alloc, h]
    have hdirty : (alloc n b l false s).dirty = s.dirty := by simp [alloc, h]
    exact fun x _ => ⟨by rw [hmem], by rw [hdirty]⟩
  | true =>
    refine Stored.writesIn (v := 0) (stored_of_writeLE (by omega) ?_ ?_) hfit
    · simp [alloc, h, fillZero_eq_writeLE]
    · simp [alloc, h]

/-- BT.1 where the allocator answers `t`. -/
theorem exec_table_alloc {i : Instr} {s : State} {t : Word} {n : Nat} (hi : runsTable i = true) (hc : s.cur = some i)
    (hst : s.st = .bt1) (hn : n = ruleCount s.cfg.maxLine.toNat s.work.len.toNat)
    (ht : allocAnswer (8 * n) s.work.addr s.work.len.toNat s = some t) :
    ∃ u, exec i s = .next u ∧ WritesIn t.toNat (t.toNat + 8 * n) s u ∧
      u = { s with
        st := .bt2, pos := 0, mem := u.mem, dirty := u.dirty, live := (t, 8 * n) :: s.live
        work := { s.work with table := some t, count := n, idx := 0, rem := s.work.len }
        env := { s.env with allocs := s.env.allocs.tail, draws := s.env.draws + 1 }
        trace := .caller (.alloc (8 * n) s.cfg.descAlign (some t)) :: s.trace } := by
  have hcount : entryCount s.cfg.maxLine.toNat s.work.len.toNat = n := hn.symm
  have hstep : exec i s = .next (btAlloc s) := by
    rw [exec_table_running hi hc (.inl hst)]
    simp only [buildTableStep, hst]
  refine ⟨_, hstep, ?_, ?_⟩
  · simp only [btAlloc, hcount, ht]
    exact alloc_writesIn ht
  · simp only [btAlloc, hcount, ht]
    simp [alloc, ht, goTo, emit]

/-! ### One entry -/

@[simp] theorem btStore_goTo (q : Nat) (t : Word) (p : Phase) (r : Nat) (s : State) :
    btStore q t (goTo p r s) = goTo p r (btStore q t s) := by
  unfold btStore entryWrite
  split <;> rfl

@[simp] theorem goTo_goTo (p p' : Phase) (q q' : Nat) (s : State) : goTo p q (goTo p' q' s) = goTo p q s := rfl

/-- The entry BT.2 stands at, stored whole. -/
def entryStored (t : Word) (s : State) : State := btStore 2 t (btStore 1 t (btStore 0 t s))

/-- The state after an entry: BT.3 after the last, else BT.2 at the next. -/
def afterEntry (t : Word) (s : State) : State :=
  if s.work.idx + 1 = s.work.count then goTo .bt3 0 (entryStored t s)
  else
    goTo .bt2 0
      { entryStored t s with
        work := { s.work with
          idx := s.work.idx + 1, addr := s.work.addr + s.cfg.maxLine, rem := s.work.rem - s.cfg.maxLine } }

@[simp] theorem btStore_fields (q : Nat) (t : Word) (s : State) :
    (btStore q t s).cfg = s.cfg ∧ (btStore q t s).cur = s.cur ∧ (btStore q t s).work = s.work := by
  simp [btStore]

theorem execs_entry {i : Instr} {s : State} {t : Word} (hi : runsTable i = true) (hc : s.cur = some i)
    (hst : s.st = .bt2) (hpos : s.pos = 0) (ht : s.work.table = some t) : execs 3 i s = .next (afterEntry t s) := by
  have haddr : exec i s = .next (goTo .bt2 1 (btStore 0 t s)) := by
    rw [exec_table_entry hi hc hst ht, btEntry_field (by omega), hpos]
  have hlen : exec i (goTo .bt2 1 (btStore 0 t s)) = .next (goTo .bt2 2 (btStore 1 t (btStore 0 t s))) := by
    rw [exec_table_entry hi (by simpa using hc) rfl (by simpa using ht), btEntry_field (by simp)]
    simp
  have hattr : exec i (goTo .bt2 2 (btStore 1 t (btStore 0 t s))) = .next (afterEntry t s) := by
    rw [exec_table_entry hi (by simpa using hc) rfl (by simpa using ht), afterEntry]
    split
    · rw [btEntry_last rfl (by simpa), btStore_goTo]
      rfl
    · rw [btEntry_next rfl (by simpa), btStore_goTo]
      rfl
  rw [execs_succ haddr, execs_succ hlen, execs_succ hattr, execs]

/-- The bytes of an entry's 64-bit value: two of its flags, two of its length, four of its address
(30_encoding.md R140). -/
theorem entry_byte (a : Word) (l f : Half) {k : Nat} (hk : k < 8) :
    ((a ++ l ++ f) >>> (8 * k)).setWidth 8 =
      if k < 2 then (f.setWidth 32 >>> (8 * k)).setWidth 8
      else if k < 4 then (l.setWidth 32 >>> (8 * (k - 2))).setWidth 8
      else (a >>> (8 * (k - 4))).setWidth 8 := by
  refine BitVec.eq_of_getLsbD_eq fun j hj => ?_
  simp only [BitVec.getLsbD_setWidth, BitVec.getLsbD_ushiftRight, hj, decide_true, Bool.true_and]
  rw [BitVec.getLsbD_append, BitVec.getLsbD_append]
  obtain h | ⟨h, h'⟩ | h : k < 2 ∨ (2 ≤ k ∧ k < 4) ∨ 4 ≤ k := by omega
  · simp [h, hj, show 8 * k + j < 16 by omega, show 8 * k + j < 32 by omega]
  · have hbit : 8 * (k - 2) + j = 8 * k + j - 16 := by omega
    simp [hj, h', show ¬ k < 2 by omega, show ¬ 8 * k + j < 16 by omega, show 8 * k + j - 16 < 16 by omega,
      show 8 * k + j - 16 < 32 by omega, hbit]
  · have hbit : 8 * (k - 4) + j = 8 * k + j - 16 - 16 := by omega
    simp [hj, show ¬ k < 2 by omega, show ¬ k < 4 by omega, show ¬ 8 * k + j < 16 by omega,
      show ¬ 8 * k + j - 16 < 16 by omega, hbit]

theorem toNat_entryAddr {t : Word} {i fo : Nat} (hfit : t.toNat + 8 * i + 8 ≤ 2 ^ 32) (hfo : fo < 8) :
    (entryAddr t i fo).toNat = t.toNat + 8 * i + fo := by
  rw [entryAddr, toNat_add_ofNat (n := 8 * i + 8) (by omega) (by omega), Nat.add_assoc]

/-- The value of the entry BT.2 stands at, in the default layout. -/
def entryValue (s : State) : BitVec 64 :=
  s.work.addr ++ (entryLen s.cfg.maxLine s.work.count s.work.idx s.work.rem).setWidth 16 ++
    (if s.work.idx + 1 = s.work.count then (0x0023 : Half) else 0x0021)

section
variable {t : Word} {s : State} (hl : s.cfg.entry = EntryLayout.default)
include hl

theorem entryStored_default :
    ∃ u v, Stored (entryAddr t s.work.idx 4) 4 s.work.addr s u ∧
      Stored (entryAddr t s.work.idx 2) 2
        (((entryLen s.cfg.maxLine s.work.count s.work.idx s.work.rem).setWidth 16).setWidth 32) u v ∧
      Stored (entryAddr t s.work.idx 0) 2
        ((if s.work.idx + 1 = s.work.count then (0x0023 : Half) else 0x0021).setWidth 32) v (entryStored t s) := by
  refine ⟨btStore 0 t s, btStore 1 t (btStore 0 t s), ?_, ?_, ?_⟩
  · rw [btStore_addr hl]
    exact stored_memWrite _ _ (by omega)
  · rw [btStore_len (by simpa)]
    simp only [btStore_fields]
    exact stored_memWrite _ _ (by omega)
  · rw [entryStored, btStore_attr (by simpa)]
    simp only [btStore_fields]
    split <;> exact stored_memWrite _ _ (by omega)

/-- The three events of an entry, newest first, and memory: nothing else of the state moves. -/
theorem entryStored_state :
    entryStored t s = { s with
      mem := (entryStored t s).mem, dirty := (entryStored t s).dirty
      trace :=
        .caller (.memWrite (entryAddr t s.work.idx 0) 2 (if s.work.idx + 1 = s.work.count then 0x0023 else 0x0021)) ::
          .caller (.memWrite (entryAddr t s.work.idx 2) 2
            (((entryLen s.cfg.maxLine s.work.count s.work.idx s.work.rem).setWidth 16).setWidth 32)) ::
          .caller (.memWrite (entryAddr t s.work.idx 4) 4 s.work.addr) :: s.trace } := by
  rw [entryStored, btStore_attr (by simpa), btStore_len (by simpa), btStore_addr hl]
  rfl

/-- The CPU sees the entry where it was stored. -/
theorem entryStored_read (hfit : t.toNat + 8 * s.work.idx + 8 ≤ 2 ^ 32) {k : Nat} (hk : k < 8) :
    (entryStored t s).mem.read (t.toNat + 8 * s.work.idx + k) = some ((entryValue s >>> (8 * k)).setWidth 8) := by
  obtain ⟨u, v, haddr, hlen, hattr⟩ := entryStored_default (t := t) hl
  have h4 := toNat_entryAddr hfit (fo := 4) (by omega)
  have h2 := toNat_entryAddr hfit (fo := 2) (by omega)
  have h0 := toNat_entryAddr hfit (fo := 0) (by omega)
  rw [entryValue, entry_byte _ _ _ hk]
  obtain h | ⟨h, h'⟩ | h : k < 2 ∨ (2 ≤ k ∧ k < 4) ∨ 4 ≤ k := by omega
  · rw [if_pos h, ← hattr.read (by omega) h, h0, Nat.add_zero]
  · rw [if_neg (by omega), if_pos h', (hattr.writesIn (by omega) _ (by omega)).1,
      ← hlen.read (by omega) (k := k - 2) (by omega), h2]
    congr 1
    omega
  · rw [if_neg (by omega), if_neg (by omega), (hattr.writesIn (by omega) _ (by omega)).1,
      (hlen.writesIn (by omega) _ (by omega)).1, ← haddr.read (by omega) (k := k - 4) (by omega), h4]
    congr 1
    omega

/-- Nothing else of memory is touched. -/
theorem entryStored_writesIn (hfit : t.toNat + 8 * s.work.idx + 8 ≤ 2 ^ 32) :
    WritesIn (t.toNat + 8 * s.work.idx) (t.toNat + 8 * s.work.idx + 8) s (entryStored t s) := by
  obtain ⟨u, v, haddr, hlen, hattr⟩ := entryStored_default (t := t) hl
  have h4 := toNat_entryAddr hfit (fo := 4) (by omega)
  have h2 := toNat_entryAddr hfit (fo := 2) (by omega)
  have h0 := toNat_entryAddr hfit (fo := 0) (by omega)
  have htwo : WritesIn (t.toNat + 8 * s.work.idx + 2) (t.toNat + 8 * s.work.idx + 8) s v :=
    (haddr.writesIn (by omega)).trans (hlen.writesIn (by omega)) (by omega) (by omega)
  exact htwo.trans (hattr.writesIn (by omega)) (by omega) (by omega)

end

/-! ### The entries of a table -/

theorem ruleCount_pos {maxLine len : Nat} (h : 1 ≤ maxLine) : 1 ≤ ruleCount maxLine len := by
  unfold ruleCount
  split
  · exact le_rfl
  · exact Nat.div_pos (by omega) (by omega)

/-- The lines before the last entry lie inside the requested length (42_descriptor_builder.md R222, R225). -/
theorem ruleCount_pred_mul_le (maxLine len : Nat) : (ruleCount maxLine len - 1) * maxLine ≤ len := by
  unfold ruleCount
  split
  · simp
  · have hdiv := Nat.div_mul_le_self (len + maxLine - 1) maxLine
    rw [Nat.sub_mul]
    omega

/-- The three events of entry `i`, newest first. -/
def entryRecords (maxLine : Nat) (addr t : Word) (len i : Nat) : List Record :=
  [.caller (.memWrite (t + BitVec.ofNat 32 (8 * i)) 2 (if i + 1 < ruleCount maxLine len then 0x0021 else 0x0023)),
    .caller (.memWrite (t + BitVec.ofNat 32 (8 * i + 2)) 2 (BitVec.ofNat 32 (ruleLen maxLine len i % 2 ^ 16))),
    .caller (.memWrite (t + BitVec.ofNat 32 (8 * i + 4)) 4 (addr + BitVec.ofNat 32 (i * maxLine)))]

theorem tableRecords_eq (maxLine : Nat) (addr t : Word) (len : Nat) :
    tableRecords maxLine addr t len =
      .caller (.cacheClean t (8 * ruleCount maxLine len)) ::
        (List.range (ruleCount maxLine len)).reverse.flatMap (entryRecords maxLine addr t len) := rfl

/-- `op` has built the entries before `i` of the table at `t` for `len` bytes at `addr` and stands before entry `i`. -/
structure AtEntry (op : Instr) (addr len t : Word) (i : Nat) (s : State) : Prop where
  layout : s.cfg.entry = EntryLayout.default
  runs   : runsTable op = true
  cur    : s.cur = some op
  st     : s.st = .bt2
  pos    : s.pos = 0
  table  : s.work.table = some t
  count  : s.work.count = ruleCount s.cfg.maxLine.toNat len.toNat
  idx    : s.work.idx = i
  addr   : s.work.addr = addr + BitVec.ofNat 32 (i * s.cfg.maxLine.toNat)
  rem    : s.work.rem = len - BitVec.ofNat 32 (i * s.cfg.maxLine.toNat)

/-- `u` is `s` after the entries from `i` on of the table at `t` for `len` bytes at `addr`, before the clean. -/
structure Filled (addr len t : Word) (i : Nat) (s u : State) : Prop where
  state : u = { s with
    st := .bt3, pos := 0, mem := u.mem, dirty := u.dirty
    work := { s.work with idx := u.work.idx, addr := u.work.addr, rem := u.work.rem }
    trace := (List.range' i (ruleCount s.cfg.maxLine.toNat len.toNat - i)).reverse.flatMap
      (entryRecords s.cfg.maxLine.toNat addr t len.toNat) ++ s.trace }
  bytes : ∀ j k, i ≤ j → j < ruleCount s.cfg.maxLine.toNat len.toNat → k < 8 →
    u.mem.read (t.toNat + 8 * j + k) = some ((ruleEntry s.cfg.maxLine.toNat addr len.toNat j >>> (8 * k)).setWidth 8)
  writes : WritesIn (t.toNat + 8 * i) (t.toNat + 8 * ruleCount s.cfg.maxLine.toNat len.toNat) s u

section
variable {op : Instr} {addr len t : Word} {i : Nat} {s : State} (h : AtEntry op addr len t i s)
include h

/-- The length the machine gives entry `i` is that of R222, cut to the field. -/
theorem AtEntry.entryLen_eq (hi : i < ruleCount s.cfg.maxLine.toNat len.toNat) :
    (entryLen s.cfg.maxLine s.work.count s.work.idx s.work.rem).setWidth 16 =
      BitVec.ofNat 16 (ruleLen s.cfg.maxLine.toNat len.toNat i) := by
  rw [entryLen, ruleLen, h.count, h.idx, h.rem]
  split
  · rw [BitVec.ofNat_toNat]
  · have hlast : ruleCount s.cfg.maxLine.toNat len.toNat - 1 = i := by omega
    have hle := ruleCount_pred_mul_le s.cfg.maxLine.toNat len.toNat
    rw [hlast] at hle ⊢
    apply BitVec.eq_of_toNat_eq
    simp only [BitVec.toNat_setWidth, BitVec.toNat_sub, BitVec.toNat_ofNat]
    omega

theorem AtEntry.isLast_iff (hi : i < ruleCount s.cfg.maxLine.toNat len.toNat) :
    i + 1 = s.work.count ↔ ¬ i + 1 < ruleCount s.cfg.maxLine.toNat len.toNat := by
  rw [h.count]
  omega

theorem AtEntry.entryValue_eq (hi : i < ruleCount s.cfg.maxLine.toNat len.toNat) :
    entryValue s = ruleEntry s.cfg.maxLine.toNat addr len.toNat i := by
  rw [entryValue, h.entryLen_eq hi]
  simp only [ruleEntry, h.addr, h.idx, h.isLast_iff hi, ite_not]

theorem AtEntry.entryStored_eq (hi : i < ruleCount s.cfg.maxLine.toNat len.toNat) :
    entryStored t s = { s with
      mem := (entryStored t s).mem, dirty := (entryStored t s).dirty
      trace := entryRecords s.cfg.maxLine.toNat addr t len.toNat i ++ s.trace } := by
  have hlen : (BitVec.ofNat 16 (ruleLen s.cfg.maxLine.toNat len.toNat i)).setWidth 32 =
      BitVec.ofNat 32 (ruleLen s.cfg.maxLine.toNat len.toNat i % 2 ^ 16) := by
    apply BitVec.eq_of_toNat_eq
    simp
  refine (entryStored_state h.layout).trans ?_
  rw [h.entryLen_eq hi, hlen]
  simp only [h.idx, h.isLast_iff hi, ite_not, h.addr]
  rfl

/-- The CPU sees entry `i` where it belongs, and memory is touched there alone. -/
theorem AtEntry.entryStored_mem (hi : i < ruleCount s.cfg.maxLine.toNat len.toNat)
    (hfit : t.toNat + 8 * ruleCount s.cfg.maxLine.toNat len.toNat ≤ 2 ^ 32) :
    (∀ k < 8, (entryStored t s).mem.read (t.toNat + 8 * i + k) =
      some ((ruleEntry s.cfg.maxLine.toNat addr len.toNat i >>> (8 * k)).setWidth 8)) ∧
    WritesIn (t.toNat + 8 * i) (t.toNat + 8 * i + 8) s (entryStored t s) := by
  have hidx := h.idx
  have hvalue := h.entryValue_eq hi
  subst hidx
  exact ⟨fun k hk => hvalue ▸ entryStored_read h.layout (by omega) hk, entryStored_writesIn h.layout (by omega)⟩

/-- The last entry leads to BT.3. -/
theorem AtEntry.last (hi : i + 1 = ruleCount s.cfg.maxLine.toNat len.toNat)
    (hfit : t.toNat + 8 * ruleCount s.cfg.maxLine.toNat len.toNat ≤ 2 ^ 32) :
    Filled addr len t i s (afterEntry t s) := by
  have hstep : afterEntry t s = goTo .bt3 0 (entryStored t s) := by
    rw [afterEntry, h.idx, if_pos ((h.isLast_iff (by omega)).2 (by omega))]
  have hrest : ruleCount s.cfg.maxLine.toNat len.toNat - i = 1 := by omega
  obtain ⟨hbytes, hwrites⟩ := h.entryStored_mem (by omega) hfit
  rw [hstep]
  refine ⟨?_, ?_, ?_⟩
  · rw [hrest, h.entryStored_eq (by omega)]
    simp [goTo]
  · intro j k hij hj hk
    have hji : j = i := by omega
    rw [hji]
    exact hbytes k hk
  · exact hwrites.mono le_rfl (by omega)

/-- Before the last entry BT.2 goes on at the next. -/
theorem AtEntry.afterEntry_eq (hi : i + 1 < ruleCount s.cfg.maxLine.toNat len.toNat) :
    afterEntry t s = { s with
      mem := (entryStored t s).mem, dirty := (entryStored t s).dirty
      work := { s.work with
        idx := s.work.idx + 1, addr := s.work.addr + s.cfg.maxLine, rem := s.work.rem - s.cfg.maxLine }
      trace := entryRecords s.cfg.maxLine.toNat addr t len.toNat i ++ s.trace } := by
  have hmore : ¬ i + 1 = s.work.count := fun hlast => (h.isLast_iff (by omega)).1 hlast hi
  rw [afterEntry, h.idx, if_neg hmore, h.entryStored_eq (by omega), ← h.st, ← h.pos]
  rfl

theorem AtEntry.next (hi : i + 1 < ruleCount s.cfg.maxLine.toNat len.toNat) :
    AtEntry op addr len t (i + 1) (afterEntry t s) := by
  rw [h.afterEntry_eq hi]
  have hline : BitVec.ofNat 32 ((i + 1) * s.cfg.maxLine.toNat) =
      BitVec.ofNat 32 (i * s.cfg.maxLine.toNat) + s.cfg.maxLine := by
    rw [Nat.succ_mul, BitVec.ofNat_add, BitVec.ofNat_toNat, BitVec.setWidth_eq]
  exact { h with
    idx := by simp [h.idx]
    addr := by simp only [h.addr, hline, BitVec.add_assoc]
    rem := by simp only [h.rem, hline]; bv_omega }

/-- The table after entry `i` and those that follow it. -/
theorem AtEntry.filled {u : State} (hi : i + 1 < ruleCount s.cfg.maxLine.toNat len.toNat)
    (hfit : t.toNat + 8 * ruleCount s.cfg.maxLine.toNat len.toNat ≤ 2 ^ 32)
    (hu : Filled addr len t (i + 1) (afterEntry t s) u) : Filled addr len t i s u := by
  obtain ⟨hbytes, hwrites⟩ := h.entryStored_mem (by omega) hfit
  have hrest : ruleCount s.cfg.maxLine.toNat len.toNat - i = ruleCount s.cfg.maxLine.toNat len.toNat - (i + 1) + 1 := by
    omega
  rw [h.afterEntry_eq hi] at hu
  obtain ⟨hstate, hlater, hwrites'⟩ := hu
  refine ⟨?_, ?_, ?_⟩
  · rw [hrest, List.range'_succ, List.reverse_cons, List.flatMap_append, List.flatMap_singleton, List.append_assoc]
    exact hstate
  · intro j k hij hj hk
    obtain rfl | hlt := Nat.eq_or_lt_of_le hij
    · exact (hwrites' _ (by omega)).1.trans (hbytes k hk)
    · exact hlater j k hlt hj hk
  · exact hwrites.trans (hi' := t.toNat + 8 * ruleCount s.cfg.maxLine.toNat len.toNat) hwrites' (by omega) (by omega)

/-- BT.2: from entry `i` on, three events an entry. -/
theorem AtEntry.execs_entries {m : Nat} (hm : i + m + 1 = ruleCount s.cfg.maxLine.toNat len.toNat)
    (hfit : t.toNat + 8 * ruleCount s.cfg.maxLine.toNat len.toNat ≤ 2 ^ 32) :
    ∃ u, execs (3 * (m + 1)) op s = .next u ∧ Filled addr len t i s u := by
  have hentry := execs_entry h.runs h.cur h.st h.pos h.table
  induction m generalizing i s with
  | zero => exact ⟨_, hentry, h.last hm hfit⟩
  | succ m ih =>
    have hnext := h.next (by omega)
    have hcfg : (afterEntry t s).cfg = s.cfg := by rw [h.afterEntry_eq (by omega)]
    obtain ⟨u, hrun, hu⟩ := ih hnext (by rw [hcfg]; omega) (by rw [hcfg]; exact hfit)
      (execs_entry hnext.runs hnext.cur hnext.st hnext.pos hnext.table)
    refine ⟨u, ?_, h.filled (by omega) hfit hu⟩
    rw [Nat.mul_succ, Nat.add_comm, execs_add hentry, hrun]

end

/-! ### A whole BUILD_TABLE -/

/-- `u` is `s`, which stands before BT.1, once the table for its operands is allocated at `t` and its `n` entries are
stored: what BT.3 cleans. -/
structure Built (t : Word) (n : Nat) (s u : State) : Prop where
  state : u = { s with
    st := .bt3, pos := 0, mem := u.mem, dirty := u.dirty, live := (t, 8 * n) :: s.live
    work := { s.work with
      table := some t, count := n, idx := u.work.idx, addr := u.work.addr, rem := u.work.rem }
    env := { s.env with allocs := s.env.allocs.tail, draws := s.env.draws + 1 }
    trace := (List.range n).reverse.flatMap (entryRecords s.cfg.maxLine.toNat s.work.addr t s.work.len.toNat) ++
      .caller (.alloc (8 * n) s.cfg.descAlign (some t)) :: s.trace }
  bytes : ∀ i k, i < n → k < 8 → u.mem.read (t.toNat + 8 * i + k) =
    some ((ruleEntry s.cfg.maxLine.toNat s.work.addr s.work.len.toNat i >>> (8 * k)).setWidth 8)
  writes : WritesIn t.toNat (t.toNat + 8 * n) s u

/-- BT.1 and BT.2, alone or nested, where the allocator answers `t`. -/
theorem execs_built {op : Instr} {s : State} {t : Word} {n : Nat} (hl : s.cfg.entry = EntryLayout.default)
    (hop : runsTable op = true) (hc : s.cur = some op) (hst : s.st = .bt1) (hmax : 1 ≤ s.cfg.maxLine.toNat)
    (hn : n = ruleCount s.cfg.maxLine.toNat s.work.len.toNat)
    (ht : allocAnswer (8 * n) s.work.addr s.work.len.toNat s = some t) :
    ∃ u, execs (3 * n + 1) op s = .next u ∧ Built t n s u := by
  have hfit := allocAnswer_fits ht
  have hpos := ruleCount_pos hmax (len := s.work.len.toNat)
  obtain ⟨v, halloc, hblock, hv⟩ := exec_table_alloc hop hc hst hn ht
  have hcfg : v.cfg = s.cfg := by rw [hv]
  have hat : AtEntry op s.work.addr s.work.len t 0 v := by
    rw [hv]
    exact ⟨hl, hop, hc, rfl, rfl, rfl, hn, rfl, by simp, by simp⟩
  obtain ⟨u, hrun, hstate, hbytes, hwrites⟩ := hat.execs_entries (m := n - 1) (by rw [hcfg]; omega)
    (by rw [hcfg, ← hn]; exact hfit)
  rw [hcfg, ← hn] at hstate hbytes hwrites
  refine ⟨u, ?_, ?_, fun i k => hbytes i k (Nat.zero_le i), hblock.trans hwrites (by omega) (by omega)⟩
  · rw [show 3 * n + 1 = 3 * (n - 1 + 1) + 1 by omega, execs_succ halloc, hrun]
  · rw [hstate, hv, List.range_eq_range']
    rfl

/-- After the clean of the range that was written, CPU and device hold the same there, and the rest is as before. -/
theorem cacheClean_agrees {a : Word} {n : Nat} {s u v : State} (h : WritesIn a.toNat (a.toNat + n) s u)
    (hmem : v.mem = u.mem) (hdev : v.dev = s.dev.splice u.mem a.toNat n)
    (hdirty : v.dirty = addrDrop u.dirty a.toNat n) :
    (∀ x, a.toNat ≤ x ∧ x < a.toNat + n → v.dev.read x = v.mem.read x ∧ x ∉ v.dirty) ∧
    (∀ x, ¬(a.toNat ≤ x ∧ x < a.toNat + n) →
      v.mem.read x = s.mem.read x ∧ v.dev.read x = s.dev.read x ∧ (x ∈ v.dirty ↔ x ∈ s.dirty)) := by
  simp only [hmem, hdev, hdirty, read_splice, mem_addrDrop]
  refine ⟨fun x hx => ⟨if_pos hx, fun hd => hd.2 hx⟩, fun x hx => ?_⟩
  obtain ⟨hread, hd⟩ := h x hx
  exact ⟨hread, if_neg hx, (and_iff_left hx).trans hd⟩

/-- `s` with BUILD_TABLE accepted, run alone (10_state.md R25, R31; log 9). -/
def tableAccepted (addr len : Word) (s : State) : State :=
  { s with
    cur := some (.buildTable addr len), st := .bt1, pos := 0, ret := none, home := .idle
    work := { Work.blank with addr := addr, len := len } }

theorem exec_tableAccepted {addr len : Word} {s : State} (h : Ready s) (hlen : 0 < len.toNat)
    (hwrap : addr.toNat + len.toNat ≤ 2 ^ 32) : exec (.buildTable addr len) s = .next (tableAccepted addr len s) := by
  have hdomain : domainError s.cfg (.buildTable addr len) = none := by
    rw [domainError, if_neg (by omega), if_neg (by omega)]
  exact runOp_ready h (.inr rfl) hdomain

/-- Settles O27: acceptance, then BT.1 and BT.2 build the table, and BT.3 cleans it and hands it over. -/
theorem buildTableRun : Obligations.BuildTableRun := by
  unfold Obligations.BuildTableRun
  intro s addr len t rest lineMax n hl hready hlen hwrap hline hmax _ hn hallocs halign hfit hbuf hlive
  subst hline
  have hans : Answers (tableAccepted addr len s) (some t) := by
    simp [Answers, tableAccepted, hallocs]
  obtain ⟨u, hrun, hstate, hbytes, hwrites⟩ := execs_built (op := .buildTable addr len)
    (s := tableAccepted addr len s) hl rfl rfl rfl hmax hn (allocAnswer_of_contract hans halign hfit hbuf hlive)
  have hclean : exec (.buildTable addr len) u = .next (btClean t u) :=
    exec_table_clean rfl (by rw [hstate]; rfl) (by rw [hstate]) (by rw [hstate])
  have hend : btClean t u = { cacheClean t (8 * n) u with
      st := u.home, pos := 0, cur := none, work := Work.blank
      trace := .table t :: .caller (.cacheClean t (8 * n)) :: u.trace } := by
    have hcount : u.work.count = n := by rw [hstate]
    have hret : (cacheClean t (8 * n) u).ret = none := by
      rw [hstate]
      rfl
    rw [btClean, hcount, handOver_sequence _ hret]
    rfl
  have hdev : u.dev = s.dev := by
    rw [hstate]
    rfl
  refine ⟨btClean t u, ?_, ?_, ?_, ?_⟩
  · calc execs (3 * n + 3) (.buildTable addr len) s
      _ = execs (3 * n + 1 + 1) (.buildTable addr len) (tableAccepted addr len s) :=
        execs_succ (exec_tableAccepted hready hlen hwrap)
      _ = execs 1 (.buildTable addr len) u := execs_add hrun
      _ = .next (btClean t u) := execs_succ hclean
  · rw [hend, tableRecords_eq, ← hn, hstate]
    simp only [tableAccepted, hallocs]
    rfl
  · rw [hend]
    exact hbytes
  · rw [hend]
    exact cacheClean_agrees hwrites rfl (hdev ▸ rfl) rfl

end Sys2Proof.Machine
end

section
/-! PROOFS. The statements of the family 30_encoding.md, first part: the words. Digits are read as they are written, so
each format needs only its own value: the number its fields make, and the fields its number has. -/

namespace Sys2Proof.Machine

/-! ### Digits -/

/-- Reading digits most significant first inverts writing them so; the number read goes on from `acc`. -/
theorem takeBE_eq_some_iff {n : Nat} {ds rest : List Digit} {acc v : Nat} :
    takeBE n ds acc = some (v, rest) ↔ v / 16 ^ n = acc ∧ ds = digitsBE n v ++ rest := by
  induction n generalizing ds acc with
  | zero => simp [takeBE, digitsBE, eq_comm]
  | succ n ih =>
    cases ds with
    | nil => simp [takeBE, digitsBE]
    | cons d ds =>
      have hd := d.isLt
      have hdigit : v / 16 ^ n = acc * 16 + d.toNat ↔ v / 16 ^ (n + 1) = acc ∧ d = BitVec.ofNat 4 (v / 16 ^ n) := by
        rw [Nat.pow_succ, ← Nat.div_div_eq_div_mul, BitVec.toNat_eq, BitVec.toNat_ofNat]
        omega
      simp only [takeBE, digitsBE, ih, hdigit, List.cons_append, List.cons.injEq, and_assoc]

/-- Reading digits least significant first inverts writing them so. -/
theorem takeLE_eq_some_iff {n : Nat} {ds rest : List Digit} {v : Nat} :
    takeLE n ds = some (v, rest) ↔ v < 16 ^ n ∧ ds = digitsLE n v ++ rest := by
  induction n generalizing ds v with
  | zero => simp [takeLE, digitsLE, eq_comm]
  | succ n ih =>
    cases ds with
    | nil => simp [takeLE, digitsLE]
    | cons d ds =>
      have hd := d.isLt
      have hdigit (u : Nat) : d.toNat + 16 * u = v ↔ u = v / 16 ∧ d = BitVec.ofNat 4 v := by
        rw [BitVec.toNat_eq, BitVec.toNat_ofNat]
        omega
      have hnext : takeLE (n + 1) (d :: ds) = some (v, rest) ↔
          takeLE n ds = some (v / 16, rest) ∧ d = BitVec.ofNat 4 v := by
        simp only [takeLE]
        cases takeLE n ds with
        | none => simp
        | some p => simp only [Option.some.injEq, Prod.ext_iff, hdigit, and_right_comm]
      rw [hnext, ih, Nat.pow_succ, ← Nat.div_lt_iff_lt_mul (by omega), and_assoc, and_comm (b := d = _)]
      simp only [digitsLE, List.cons_append, List.cons.injEq]

/-- `ds` is the word `w`, padded with zero digits. -/
def Padded (w ds : List Digit) : Prop := ∃ n, ds = w ++ List.replicate n 0

theorem Padded.append {w ds : List Digit} (u : List Digit) (h : Padded w ds) : Padded (u ++ w) (u ++ ds) := by
  obtain ⟨n, rfl⟩ := h
  exact ⟨n, by rw [List.append_assoc]⟩

theorem ended_nil (i : Instr) : ended i [] = .ok i := rfl

/-- What passes its test is read, anything else is not. -/
theorem ite_eq_ok_iff {P : Prop} [Decidable P] {i j : Instr} {e : DecodeError} :
    (if P then Except.ok i else Except.error e) = Except.ok j ↔ P ∧ i = j := by
  split <;> simp [*]

theorem ended_padded {i j : Instr} {rest : List Digit} (h : ended i rest = .ok j) : i = j ∧ Padded [] rest := by
  obtain ⟨hzeros, rfl⟩ := ite_eq_ok_iff.1 h
  exact ⟨rfl, rest.length, List.eq_replicate_iff.2 ⟨rfl, by simpa using hzeros⟩⟩

/-! ### Fields of a number -/

theorem toNat_bitOf (v lo : Nat) : (bitOf v lo).toNat = v / 2 ^ lo % 2 := by
  obtain h | h := Nat.mod_two_eq_zero_or_one (v / 2 ^ lo) <;> simp [bitOf, h]

theorem toNat_ofNat_bitsOf (v lo n : Nat) : (BitVec.ofNat n (bitsOf v lo n)).toNat = v / 2 ^ lo % 2 ^ n := by
  rw [BitVec.toNat_ofNat, bitsOf, Nat.mod_mod]

theorem bitOf_eq_iff {v lo : Nat} {b : Bool} : bitOf v lo = b ↔ v / 2 ^ lo % 2 = b.toNat :=
  ⟨fun h => by rw [← h, toNat_bitOf], fun h => by rw [bitOf, h, Bool.toNat_beq_one]⟩

theorem ofNat_bitsOf_eq {v lo n : Nat} {x : BitVec n} (h : v / 2 ^ lo % 2 ^ n = x.toNat) :
    BitVec.ofNat n (bitsOf v lo n) = x :=
  BitVec.eq_of_toNat_eq ((toNat_ofNat_bitsOf v lo n).trans h)

/-! ### SEND_COMMAND -/

theorem bitsOfCmd_lt (c : Cmd) : bitsOfCmd c < 16 ^ 33 := by
  have := c.index.isLt
  have := c.argument.isLt
  have := c.respType.isLt
  have := c.dataPresent.toNat_lt
  have := c.cmdType.isLt
  have := c.dir.toNat_lt
  have := c.buf.isLt
  have := c.blockCount.isLt
  simp only [bitsOfCmd]
  omega

theorem cmdOfBits_bitsOfCmd (c : Cmd) : cmdOfBits (bitsOfCmd c) = c := by
  obtain ⟨index, argument, respType, dataPresent, cmdType, dir, buf, blockCount⟩ := c
  have := index.isLt
  have := argument.isLt
  have := respType.isLt
  have := dataPresent.toNat_lt
  have := cmdType.isLt
  have := dir.toNat_lt
  have := buf.isLt
  have := blockCount.isLt
  rw [cmdOfBits, Cmd.mk.injEq]
  simp only [bitsOfCmd]
  refine ⟨?_, ?_, ?_, ?_, ?_, ?_, ?_, ?_⟩
  · exact ofNat_bitsOf_eq (by omega)
  · exact ofNat_bitsOf_eq (by omega)
  · exact ofNat_bitsOf_eq (by omega)
  · exact bitOf_eq_iff.2 (by omega)
  · exact ofNat_bitsOf_eq (by omega)
  · exact bitOf_eq_iff.2 (by omega)
  · exact ofNat_bitsOf_eq (by omega)
  · exact ofNat_bitsOf_eq (by omega)

theorem bitsOfCmd_cmdOfBits {v : Nat} (hv : v < 16 ^ 33) : bitsOfCmd (cmdOfBits v) = v := by
  simp only [bitsOfCmd, cmdOfBits, toNat_ofNat_bitsOf, toNat_bitOf]
  omega

/-! ### Hardware-side words -/

/-- `read` gives `i` from the number of `i`'s own word of `n` digits. -/
def ReadsBack (n : Nat) (read : Nat → Except DecodeError Instr) (i : Instr) : Prop :=
  ∃ v, v < 16 ^ n ∧ read v = .ok i ∧ encode i = digitsLE n v

theorem wordCmd_readsBack (i : BitVec 6) (t : BitVec 2) (p : Bool) (r : BitVec 2) :
    ReadsBack 4 wordOfCmd (.wordCmd i t p r) := by
  have := i.isLt
  have := t.isLt
  have := p.toNat_lt
  have := r.isLt
  refine ⟨_, ?_, ?_, rfl⟩
  · omega
  · rw [wordOfCmd, if_pos (by simp only [bitsOf]; omega), ofNat_bitsOf_eq (x := i) (by omega),
      ofNat_bitsOf_eq (x := t) (by omega), (bitOf_eq_iff (b := p)).2 (by omega), ofNat_bitsOf_eq (x := r) (by omega)]

theorem wordTransmode_readsBack (m d : Bool) : ReadsBack 4 wordOfTransmode (.wordTransmode m d m m) := by
  cases m <;> cases d <;> exact ⟨_, by decide, rfl, rfl⟩

theorem wordClk_readsBack (l : Byte) (h : BitVec 2) : ReadsBack 4 wordOfClk (.wordClk l h) := by
  have := l.isLt
  have := h.isLt
  refine ⟨_, ?_, ?_, rfl⟩
  · omega
  · rw [wordOfClk, if_pos (by simp only [bitsOf]; omega), ofNat_bitsOf_eq (x := l) (by omega),
      ofNat_bitsOf_eq (x := h) (by omega)]

theorem wordSwReset_readsBack (d c a : Bool) : ReadsBack 2 wordOfSwReset (.wordSwReset d c a) := by
  cases d <;> cases c <;> cases a <;> exact ⟨_, by decide, rfl, rfl⟩

theorem wordPwrAck_readsBack (i b : Bool) : ReadsBack 8 wordOfPwrAck (.wordPwrAck i b) := by
  cases i <;> cases b <;> exact ⟨_, by decide, rfl, rfl⟩

theorem wordStsClear_readsBack (t : Bool) : ReadsBack 4 wordOfStsClear (.wordStsClear t !t) := by
  cases t <;> exact ⟨_, by decide, rfl, rfl⟩

theorem adma2Entry_readsBack (a : Word) (l : Half) (e : Bool) : ReadsBack 16 wordOfEntry (.adma2Entry a l e) := by
  have := a.isLt
  have := l.isLt
  have := e.toNat_lt
  refine ⟨_, ?_, ?_, rfl⟩
  · omega
  · rw [wordOfEntry, if_pos (by simp only [bitsOf, bitOf_eq_iff, Bool.toNat_true]; omega),
      ofNat_bitsOf_eq (x := a) (by omega), ofNat_bitsOf_eq (x := l) (by omega), (bitOf_eq_iff (b := e)).2 (by omega)]

/-- `read` gives an instruction of place `p` only from the number of its own word of `n` digits. -/
def ReadsWordsOf (p : Place) (n : Nat) (read : Nat → Except DecodeError Instr) : Prop :=
  ∀ v j, v < 16 ^ n → read v = .ok j → j.place = p ∧ encode j = digitsLE n v

theorem wordOfCmd_reads : ReadsWordsOf .cmd 4 wordOfCmd := by
  intro v j hv h
  obtain ⟨hbits, rfl⟩ := ite_eq_ok_iff.1 h
  refine ⟨rfl, congrArg (digitsLE 4) ?_⟩
  rw [toNat_ofNat_bitsOf, toNat_ofNat_bitsOf, toNat_bitOf, toNat_ofNat_bitsOf]
  simp only [bitsOf] at hbits
  omega

theorem wordOfTransmode_reads : ReadsWordsOf .transmode 4 wordOfTransmode := by
  intro v j hv h
  obtain ⟨⟨hhigh, h2, h0, -, -⟩, rfl⟩ := ite_eq_ok_iff.1 h
  refine ⟨rfl, congrArg (digitsLE 4) ?_⟩
  rw [toNat_bitOf, toNat_bitOf, toNat_bitOf, toNat_bitOf]
  simp only [bitsOf, bitOf_eq_iff, Bool.toNat_false, Bool.toNat_true] at hhigh h2 h0
  omega

theorem wordOfClk_reads : ReadsWordsOf .clk 4 wordOfClk := by
  intro v j hv h
  obtain ⟨hlow, rfl⟩ := ite_eq_ok_iff.1 h
  refine ⟨rfl, congrArg (digitsLE 4) ?_⟩
  rw [toNat_ofNat_bitsOf, toNat_ofNat_bitsOf]
  simp only [bitsOf] at hlow
  omega

theorem wordOfSwReset_reads : ReadsWordsOf .swReset 2 wordOfSwReset := by
  intro v j hv h
  obtain ⟨hhigh, rfl⟩ := ite_eq_ok_iff.1 h
  refine ⟨rfl, congrArg (digitsLE 2) ?_⟩
  rw [toNat_bitOf, toNat_bitOf, toNat_bitOf]
  simp only [bitsOf] at hhigh
  omega

theorem wordOfPwrAck_reads : ReadsWordsOf .pwrAck 8 wordOfPwrAck := by
  intro v j hv h
  obtain ⟨⟨hhigh, h1⟩, rfl⟩ := ite_eq_ok_iff.1 h
  refine ⟨rfl, congrArg (digitsLE 8) ?_⟩
  rw [toNat_bitOf, toNat_bitOf]
  simp only [bitsOf, bitOf_eq_iff, Bool.toNat_false] at hhigh h1
  omega

theorem wordOfStsClear_reads : ReadsWordsOf .stsClear 4 wordOfStsClear := by
  intro v j hv h
  obtain ⟨⟨hhigh, -⟩, rfl⟩ := ite_eq_ok_iff.1 h
  refine ⟨rfl, congrArg (digitsLE 4) ?_⟩
  rw [toNat_bitOf, toNat_bitOf]
  simp only [bitsOf] at hhigh
  omega

theorem wordOfEntry_reads : ReadsWordsOf .entry 16 wordOfEntry := by
  intro v j hv h
  obtain ⟨⟨hattr, h0⟩, rfl⟩ := ite_eq_ok_iff.1 h
  refine ⟨rfl, congrArg (digitsLE 16) ?_⟩
  rw [toNat_ofNat_bitsOf, toNat_ofNat_bitsOf, toNat_bitOf]
  simp only [bitsOf, bitOf_eq_iff, Bool.toNat_true] at hattr h0
  omega

/-! ### Decoding an encoded word -/

theorem withOperand_digits (n : Nat) {v : Nat} (f : Nat → Instr) (hv : v < 16 ^ n) :
    withOperand n (digitsBE n v) f = .ok (f v) := by
  have htake : takeBE n (digitsBE n v) 0 = some (v, []) :=
    takeBE_eq_some_iff.2 ⟨Nat.div_eq_of_lt hv, (List.append_nil _).symm⟩
  simp only [withOperand, htake, ended_nil]

theorem decodeWord_encode {n : Nat} {read : Nat → Except DecodeError Instr} {i : Instr} (h : ReadsBack n read i) :
    decodeWord n read (encode i) = .ok i := by
  obtain ⟨v, hv, hread, hword⟩ := h
  have htake : takeLE n (encode i) = some (v, []) := takeLE_eq_some_iff.2 ⟨hv, by rw [hword, List.append_nil]⟩
  simp only [decodeWord, htake, hread, ended_nil]

/-- An operand that fills its digits. -/
theorem withOperand_bitVec (n : Nat) {w : Nat} (f : BitVec w → Instr) (x : BitVec w) (hw : 16 ^ n = 2 ^ w) :
    withOperand n (digitsBE n x.toNat) (fun v => f (BitVec.ofNat w v)) = .ok (f x) :=
  (withOperand_digits n _ (hw ▸ x.isLt)).trans (by rw [BitVec.ofNat_toNat, BitVec.setWidth_eq])

/-- Settles O2, format by format: an operation code and the digits of its operands, or the number of a word's fields. -/
theorem decodeEncodeAgree : Obligations.DecodeEncodeAgree := by
  unfold Obligations.DecodeEncodeAgree
  intro i hwf
  cases i with
  | init => rfl
  | sendCommand c =>
    exact (withOperand_digits 33 (fun v => .sendCommand (cmdOfBits v)) (bitsOfCmd_lt c)).trans
      (by rw [cmdOfBits_bitsOfCmd])
  | clkSupply f => exact withOperand_bitVec 8 .clkSupply f rfl
  | setBusWidth w => exact withOperand_bitVec 4 .setBusWidth w rfl
  | setSdrMode => rfl
  | setDdrMode => rfl
  | modeEnable g => exact withOperand_bitVec 2 .modeEnable g rfl
  | reserved7 => rfl
  | reserved14 => rfl
  | reserved15 => rfl
  | changeFrequency f => exact withOperand_bitVec 8 .changeFrequency f rfl
  | buildTable a l =>
    have := a.isLt
    have := l.isLt
    refine (withOperand_digits 16
      (fun v => .buildTable (BitVec.ofNat 32 (bitsOf v 32 32)) (BitVec.ofNat 32 (bitsOf v 0 32))) ?_).trans ?_
    · omega
    · rw [ofNat_bitsOf_eq (x := a) (by omega), ofNat_bitsOf_eq (x := l) (by omega)]
  | softReset m => exact withOperand_bitVec 2 .softReset m rfl
  | respExtract r =>
    have hd : (BitVec.ofNat 4 (r.toNat * 4)).toNat = r.toNat * 4 := by
      rw [BitVec.toNat_ofNat]
      omega
    refine (if_pos (by rw [hd, Nat.mul_mod_left])).trans ?_
    rw [ended_nil, hd, Nat.mul_div_cancel _ (by omega), BitVec.ofNat_toNat, BitVec.setWidth_eq]
  | errDecode => rfl
  | pwrIrq => rfl
  | wordCmd i t p r => exact decodeWord_encode (wordCmd_readsBack i t p r)
  | wordTransmode m d a c =>
    obtain ⟨rfl, rfl⟩ : m = a ∧ a = c := by simpa [Instr.wf] using hwf
    exact decodeWord_encode (wordTransmode_readsBack m d)
  | wordClk l h => exact decodeWord_encode (wordClk_readsBack l h)
  | wordSwReset d c a => exact decodeWord_encode (wordSwReset_readsBack d c a)
  | wordPwrAck i b => exact decodeWord_encode (wordPwrAck_readsBack i b)
  | wordStsClear t c =>
    have hne : t ≠ c := by simpa [Instr.wf] using hwf
    obtain rfl : c = !t := Bool.eq_not.2 hne.symm
    exact decodeWord_encode (wordStsClear_readsBack t)
  | adma2Entry a l e => exact decodeWord_encode (adma2Entry_readsBack a l e)

/-! ### Digits that decode -/

theorem decodeWord_padded {p : Place} {n : Nat} {read : Nat → Except DecodeError Instr} {ds : List Digit} {i : Instr}
    (hread : ReadsWordsOf p n read) (h : decodeWord n read ds = .ok i) : Padded (encode i) ds ∧ i.place = p := by
  unfold decodeWord at h
  split at h
  · cases h
  · rename_i v rest htake
    obtain ⟨hv, rfl⟩ := takeLE_eq_some_iff.1 htake
    split at h
    · cases h
    · rename_i j hj
      obtain ⟨rfl, hrest⟩ := ended_padded h
      obtain ⟨hplace, hword⟩ := hread v j hv hj
      exact ⟨by simpa [hword] using hrest.append (digitsLE n v), hplace⟩

/-- A word of its operation code alone. -/
theorem ended_word {op code : Digit} {rest : List Digit} {i j : Instr} (hop : op.toNat = code.toNat)
    (hi : encode i = [code]) (h : ended i rest = .ok j) : Padded (encode j) (op :: rest) := by
  obtain rfl := BitVec.eq_of_toNat_eq hop
  obtain ⟨rfl, hrest⟩ := ended_padded h
  exact hi ▸ hrest.append [op]

/-- A word of its operation code and `n` digits of operands. -/
theorem withOperand_word {n : Nat} {op code : Digit} {rest : List Digit} {f : Nat → Instr} {j : Instr}
    (hop : op.toNat = code.toNat) (hf : ∀ v, v < 16 ^ n → encode (f v) = code :: digitsBE n v)
    (h : withOperand n rest f = .ok j) : Padded (encode j) (op :: rest) := by
  obtain rfl := BitVec.eq_of_toNat_eq hop
  unfold withOperand at h
  split at h
  · cases h
  · rename_i v tail htake
    obtain ⟨hv, rfl⟩ := takeBE_eq_some_iff.1 htake
    obtain ⟨rfl, htail⟩ := ended_padded h
    rw [hf v (Nat.lt_of_div_eq_zero (by positivity) hv)]
    simpa using htail.append (op :: digitsBE n v)

theorem toNat_ofNat_operand {n w v : Nat} (hv : v < 16 ^ n) (hw : 16 ^ n = 2 ^ w) : (BitVec.ofNat w v).toNat = v := by
  rw [BitVec.toNat_ofNat, Nat.mod_eq_of_lt (hw ▸ hv)]

/-- The two bits of RESP_EXTRACT are left-aligned in their digit (log 12). -/
theorem encode_respExtract {d : Digit} (h : d.toNat % 4 = 0) :
    encode (.respExtract (BitVec.ofNat 2 (d.toNat / 4))) = [0xB, d] := by
  have hd : BitVec.ofNat 4 ((BitVec.ofNat 2 (d.toNat / 4)).toNat * 4) = d := by
    apply BitVec.eq_of_toNat_eq
    rw [BitVec.toNat_ofNat, BitVec.toNat_ofNat]
    omega
  rw [encode, hd]

/-- The word of a request or an internal sequence, by its operation code. -/
theorem decodeOp_padded {ds : List Digit} {i : Instr} (h : decodeOp ds = .ok i) : Padded (encode i) ds := by
  cases ds with
  | nil => cases h
  | cons op rest =>
    have hlt := op.isLt
    simp only [decodeOp] at h
    split at h
    case h_1 hop => exact ended_word (code := 0) hop rfl h
    case h_2 hop => exact withOperand_word (code := 1) hop (fun v hv => by rw [encode, bitsOfCmd_cmdOfBits hv]) h
    case h_3 hop => exact withOperand_word (code := 2) hop (fun v hv => by rw [encode, toNat_ofNat_operand hv rfl]) h
    case h_4 hop => exact withOperand_word (code := 3) hop (fun v hv => by rw [encode, toNat_ofNat_operand hv rfl]) h
    case h_5 hop => exact ended_word (code := 4) hop rfl h
    case h_6 hop => exact ended_word (code := 5) hop rfl h
    case h_7 hop => exact withOperand_word (code := 6) hop (fun v hv => by rw [encode, toNat_ofNat_operand hv rfl]) h
    case h_8 hop => exact ended_word (code := 7) hop rfl h
    case h_9 hop => exact withOperand_word (code := 8) hop (fun v hv => by rw [encode, toNat_ofNat_operand hv rfl]) h
    case h_10 hop =>
      refine withOperand_word (code := 9) hop (fun v hv => ?_) h
      have hfields : v / 2 ^ 32 % 2 ^ 32 * 2 ^ 32 + v / 2 ^ 0 % 2 ^ 32 = v := by omega
      rw [encode, toNat_ofNat_bitsOf, toNat_ofNat_bitsOf, hfields]
    case h_11 hop => exact withOperand_word (code := 10) hop (fun v hv => by rw [encode, toNat_ofNat_operand hv rfl]) h
    case h_12 hop =>
      obtain rfl : op = 11 := BitVec.eq_of_toNat_eq hop
      cases rest with
      | nil => cases h
      | cons d tail =>
        dsimp only at h
        split at h
        · rename_i hlow
          obtain ⟨rfl, htail⟩ := ended_padded h
          rw [encode_respExtract hlow]
          exact htail.append [11, d]
        · cases h
    case h_13 hop => exact ended_word (code := 12) hop rfl h
    case h_14 hop => exact ended_word (code := 13) hop rfl h
    case h_15 hop => exact ended_word (code := 14) hop rfl h
    case h_16 =>
      have hop : op.toNat = 15 := by
        simp only [imp_false] at *
        omega
      exact ended_word (code := 15) hop rfl h

/-- Settles O3: a request or a sequence by its operation code, a hardware-side word by its place. -/
theorem encodeDecodeAgree : Obligations.EncodeDecodeAgree := by
  unfold Obligations.EncodeDecodeAgree
  intro p ds i h
  cases p with
  | port => exact ⟨decodeOp_padded h, .inr ⟨.inl rfl, decodeOp_spoken h⟩⟩
  | sequence => exact ⟨decodeOp_padded h, .inr ⟨.inr rfl, decodeOp_spoken h⟩⟩
  | cmd => exact (decodeWord_padded wordOfCmd_reads h).imp_right .inl
  | transmode => exact (decodeWord_padded wordOfTransmode_reads h).imp_right .inl
  | clk => exact (decodeWord_padded wordOfClk_reads h).imp_right .inl
  | swReset => exact (decodeWord_padded wordOfSwReset_reads h).imp_right .inl
  | pwrAck => exact (decodeWord_padded wordOfPwrAck_reads h).imp_right .inl
  | stsClear => exact (decodeWord_padded wordOfStsClear_reads h).imp_right .inl
  | entry => exact (decodeWord_padded wordOfEntry_reads h).imp_right .inl

/-! ### Words of the engine -/

theorem toNat_append_add {m n : Nat} (x : BitVec m) (y : BitVec n) : (x ++ y).toNat = x.toNat * 2 ^ n + y.toNat := by
  rw [BitVec.toNat_append, ← Nat.shiftLeft_add_eq_or_of_lt y.isLt, Nat.shiftLeft_eq]

theorem cmdWord_isTableWord (c : Cmd) (rt : BitVec 2) (h : c.index.toNat ≤ 63) :
    digitsLE 4 (cmdWord Bits.default c.index (cmdFlags Bits.default rt c.dataPresent c.cmdType)).toNat =
      encode (.wordCmd (c.index.setWidth 6) c.cmdType c.dataPresent rt) := by
  have hindex : (c.index.setWidth 6).setWidth 16 = c.index := by
    apply BitVec.eq_of_toNat_eq
    simp only [BitVec.toNat_setWidth]
    omega
  have hvalue := wordCmdValue_default (c.index.setWidth 6) c.cmdType c.dataPresent rt
  rw [wordCmdValue, hindex] at hvalue
  refine congrArg (digitsLE 4) ?_
  simp only [hvalue, toNat_append_add, BitVec.toNat_ofNat, BitVec.toNat_ofBool]
  omega

theorem transModeWord_isTableWord (blocks : Word) (read : Bool) :
    digitsLE 4 (transModeWord Bits.default blocks read).toNat =
      encode (.wordTransmode (decide (1 < blocks.toNat)) read (decide (1 < blocks.toNat))
        (decide (1 < blocks.toNat))) := by
  by_cases h : 1 < blocks.toNat
  · cases read <;> simp [transModeWord_default, encode, h]
  · cases read <;> simp [transModeWord_default, encode, h]

theorem clkFields_isTableWord (l : Byte) (h : BitVec 2) :
    digitsLE 4 (clkFields Bits.default l h).toNat = encode (.wordClk l h) := by
  refine congrArg (digitsLE 4) ?_
  simp only [clkFields_default, toNat_append_add, BitVec.toNat_ofNat]
  omega

theorem ackFields_isTableWord (x b : Bool) :
    digitsLE 8 (ackFields Bits.default x b).toNat = encode (.wordPwrAck x b) := by
  cases x <;> cases b <;> rfl

theorem entry_isTableWord (a : Word) (l : Half) (last : Bool) :
    digitsLE 16 (a.toNat * 2 ^ 32 + l.toNat * 2 ^ 16 + (entryAttr EntryLayout.default last).toNat) =
      encode (.adma2Entry a l last) := by
  have hattr : (entryAttr EntryLayout.default last).toNat = 0x20 + last.toNat * 2 + 1 := by cases last <;> rfl
  refine congrArg (digitsLE 16) ?_
  rw [hattr]
  omega

/-- Settles O4: each word is the encoding of its word instruction, which decodes to it. -/
theorem engineWordsAreTableWords : Obligations.EngineWordsAreTableWords := by
  unfold Obligations.EngineWordsAreTableWords
  refine ⟨fun c rt h => ?_, fun blocks read => ?_, fun div _ _ => ?_, fun m => ?_, fun a l last => ?_⟩
  · rw [cmdWord_isTableWord c rt h]
    exact decodeEncodeAgree (.wordCmd _ _ _ _) rfl
  · rw [transModeWord_isTableWord]
    exact decodeEncodeAgree (.wordTransmode _ _ _ _) (by simp [Instr.wf])
  · rw [clkWord, clkFields_isTableWord]
    exact decodeEncodeAgree (.wordClk _ _) rfl
  · rw [ackWord, ackFields_isTableWord]
    exact decodeEncodeAgree (.wordPwrAck _ _) rfl
  · rw [entry_isTableWord]
    exact decodeEncodeAgree (.adma2Entry _ _ _) rfl

/-- Settles O1, word by word. -/
theorem decodeOfSpecWords : Obligations.DecodeOfSpecWords := by
  unfold Obligations.DecodeOfSpecWords
  decide

end Sys2Proof.Machine
end

section
/-! PROOFS. The statements of the family 30_encoding.md, second part: the codes 7 to 15, and the phases that read a tag,
write a word the engine assembles, or decode the capability words. -/

namespace Sys2Proof.Machine

/-! ### The codes 7 to 15 -/

/-- A word whose code is 7 to 15 is an internal sequence, or a reserved code and refused by that name. -/
theorem highCode_cases {op : Digit} {rest : List Digit} {i : Instr} (hop : 7 ≤ op.toNat)
    (h : decodeOp (op :: rest) = .ok i) :
    isInternal i = true ∨
      isInternal i = false ∧ i ≠ .pwrIrq ∧ ∀ s, exec i s = .refused (.reservedCode op.toNat) := by
  have hplace := decodeOp_spoken h
  obtain ⟨n, hword⟩ := decodeOp_padded h
  have hcode : (encode i ++ List.replicate n 0).head? = some op := by rw [← hword]; rfl
  cases i with
  | changeFrequency f | buildTable a l | softReset m | respExtract r | errDecode | pwrIrq => exact .inl rfl
  | reserved7 | reserved14 | reserved15 =>
    cases hcode
    exact .inr ⟨rfl, nofun, fun _ => rfl⟩
  | init | sendCommand c | clkSupply f | setBusWidth w | setSdrMode | setDdrMode | modeEnable g =>
    cases hcode
    exact absurd hop (by decide)
  | wordCmd | wordTransmode | wordClk | wordSwReset | wordPwrAck | wordStsClear | adma2Entry =>
    simp [Instr.spoken, Instr.place] at hplace

/-- Settles O14: the word decodes to nothing, to an internal sequence, which the port refuses, or to a reserved code. -/
theorem reservedAndInternalCodesRefused : Obligations.ReservedAndInternalCodesRefused := by
  unfold Obligations.ReservedAndInternalCodesRefused
  refine ⟨fun s => ⟨rfl, rfl, rfl⟩, ?_⟩
  intro s op rest r hop hs hc ha ho
  have hstep : step s = callerStep (dropTurn s) := by simp only [step, hs]
  cases hd : decodeOp (op :: rest) with
  | error d =>
    refine ⟨.undecodable d, ?_, .inr (.inr ⟨d, rfl⟩)⟩
    simp [hstep, callerStep, hc, ho, ha, fetched, decodeAt, hd]
  | ok i =>
    obtain hint | ⟨hint, hirq, hexec⟩ := highCode_cases hop hd
    · refine ⟨.internalCode, ?_, .inl rfl⟩
      simp [hstep, callerStep, hc, ho, ha, fetched, decodeAt, hd, hint]
    · refine ⟨.reservedCode op.toNat, ?_, .inr (.inl rfl)⟩
      simp [hstep, callerStep, hc, ho, ha, fetched, decodeAt, hd, hint, mustWait, hirq, hexec]

/-! ### CLK_SUPPLY, CHANGE_FREQUENCY and SET_BUS_WIDTH, one event at a time -/

/-- In its six phases, alone or nested, a running CLK_SUPPLY performs its next event. -/
theorem exec_clock_running {i : Instr} {s : State} (hi : runsClock i = true) (hc : s.cur = some i)
    (hp : isCsPhase s.st = true) : exec i s = clkSupplyStep s := by
  simp only [isCsPhase, Bool.or_eq_true, beq_iff_eq] at hp
  cases i with
  | clkSupply f => rw [exec, execClkSupply, runOp_running hc]
  | changeFrequency f | setSdrMode | setDdrMode =>
    simp only [exec, execChangeFrequency, execSetSdrMode, execSetDdrMode, runOp_running hc]
    obtain ((((h | h) | h) | h) | h) | h := hp <;>
      simp only [changeFrequencyStep, setSdrModeStep, setDdrModeStep, h]
  | _ => cases hi

theorem exec_changeFrequency_running {s : State} {f : Word} (hc : s.cur = some (.changeFrequency f)) :
    exec (.changeFrequency f) s = changeFrequencyStep f s := by
  rw [exec, execChangeFrequency, runOp_running hc]

/-- In its two phases, alone or nested, a running SET_BUS_WIDTH performs its next event. -/
theorem exec_width_running {i : Instr} {s : State} (hi : runsWidth i = true) (hc : s.cur = some i)
    (hp : s.st = .bw1 ∨ s.st = .bw2) : exec i s = setBusWidthStep s := by
  cases i with
  | init =>
    refine (runOp_running hc).trans ?_
    obtain h | h := hp <;> simp only [initStep, h]
  | setBusWidth w => exact runOp_running hc
  | _ => cases hi

/-! ### CS.4 -/

/-- The clock word of R128 is the one the engine assembles. -/
theorem ruleClkWord_eq (div : Word) : ruleClkWord div.toNat = (clkWord Bits.default div).setWidth 32 := by
  have hlow : BitVec.ofNat 8 (div.toNat / 2) = (BitVec.ofNat 32 (div.toNat / 2)).setWidth 8 := by
    apply BitVec.eq_of_toNat_eq
    simp only [BitVec.toNat_ofNat, BitVec.toNat_setWidth]
    omega
  have hhigh : BitVec.ofNat 2 (div.toNat / 2 / 256) = (BitVec.ofNat 32 (div.toNat / 2)).extractLsb' 8 2 := by
    apply BitVec.eq_of_toNat_eq
    simp only [BitVec.toNat_ofNat, BitVec.extractLsb'_toNat, Nat.shiftRight_eq_div_pow]
    omega
  rw [ruleClkWord, clkWord, clkFields_default, hlow, hhigh]
  generalize BitVec.ofNat 32 (div.toNat / 2) = n
  refine BitVec.eq_of_getLsbD_eq fun k hk => ?_
  rw [BitVec.getLsbD_setWidth, BitVec.getLsbD_append, BitVec.getLsbD_append]
  interval_cases k <;> simp

/-- The clock word leaves CLK_EN clear. -/
theorem ruleClkWord_clkEn (div : Nat) : ruleClkWord div &&& 0x0004 = 0 := by
  refine BitVec.eq_of_getLsbD_eq fun k hk => ?_
  interval_cases k <;> simp [ruleClkWord]

/-- The write of the clock word puts the word of R128, with the volatile bit CLK_CTRL had. -/
theorem regWrite_clkWord {s : State} (hb : s.cfg.bits = Bits.default) (div : Word) :
    regWrite .clkCtrl ((clkWord Bits.default div).setWidth 32) s =
      { s with
        ctl := s.ctl.put .clkCtrl (ruleClkWord div.toNat ||| (s.ctl.get .clkCtrl &&& 0x0002))
        trace := .caller (.regWrite .clkCtrl (ruleClkWord div.toNat)) :: s.trace } := by
  have hbits : ruleClkWord div.toNat &&& Reg.bits .clkCtrl = ruleClkWord div.toNat := by
    rw [ruleClkWord_eq]
    exact setWidth_half _
  have hstable : ruleClkWord div.toNat &&& ~~~(Bits.default.clkVolatile.setWidth 32) = ruleClkWord div.toNat := by
    rw [ruleClkWord_eq, clkWord, clkFields_default]
    exact clkWord_stable _ _
  rw [← ruleClkWord_eq]
  simp only [regWrite, emit, hb, hbits, Ctl.written, hstable]
  rfl

/-- Settles O20: the clock word is that of R128, and its write the one event. -/
theorem clkWordWrite : Obligations.ClkWordWrite := by
  unfold Obligations.ClkWordWrite
  rintro s i ⟨hb, -, -⟩ hi hc hst
  refine ⟨ruleClkWord_clkEn _, ?_⟩
  have hword : (ruleClkWord s.work.div.toNat).setWidth 16 = clkWord Bits.default s.work.div := by
    rw [ruleClkWord_eq, BitVec.setWidth_setWidth_of_le _ (by omega), BitVec.setWidth_eq]
  rw [exec_clock_running hi hc (by rw [hst]; rfl), hword]
  simp only [clkSupplyStep, hst, csWrite, hb]
  rw [regWrite_clkWord (by exact hb)]
  rfl

/-! ### CHANGE_FREQUENCY -/

/-- A read that stays in its phase. -/
theorem goTo_regRead {p : Phase} {s : State} (h : s.st = p) (q : Nat) (r : Reg) (w : Work) :
    goTo p q { regRead r s with work := w } = { regRead r s with pos := q, work := w } := by
  simp [goTo, h]

/-- Settles O24: CF.1 by the lines, CF.2 and CF.3 by the position. -/
theorem changeFrequencySteps : Obligations.ChangeFrequencySteps := by
  unfold Obligations.ChangeFrequencySteps
  intro s f
  refine ⟨?_, ?_, ?_, ?_, ?_, ?_⟩
  · rintro ⟨hc, hst, hpos⟩ hlines
    have hbusy : linesIdle s.cfg.bits (readValue .presentState s) = false := by simpa [linesIdle] using hlines
    simp [exec_changeFrequency_running hc, changeFrequencyStep, hst, cfIdle, hbusy]
  · rintro ⟨hc, hst, hpos⟩ hlines
    have hidle : linesIdle s.cfg.bits (readValue .presentState s) = true := by simpa [linesIdle] using hlines
    simp [exec_changeFrequency_running hc, changeFrequencyStep, hst, cfIdle, hidle, goTo]
  · rintro ⟨hc, hst, hpos⟩
    rw [exec_changeFrequency_running hc]
    simp only [changeFrequencyStep, hst, cfDisable, hpos, if_true, goTo_regRead hst]
  · rintro ⟨hc, hst, hpos⟩
    rw [exec_changeFrequency_running hc]
    simp only [changeFrequencyStep, hst, cfDisable, hpos, Nat.one_ne_zero, if_false]
  · rintro ⟨hc, hst, hpos⟩
    rw [exec_changeFrequency_running hc]
    simp only [changeFrequencyStep, hst, cfSupply, hpos, if_true, call]
  · rintro k ⟨hc, hst, hpos⟩ hk
    rw [exec_changeFrequency_running hc]
    simp only [changeFrequencyStep, hst, cfSupply, hpos, Nat.one_ne_zero, if_false, hk]

/-! ### SC.2 and SC.3 -/

/-- R131 in the default codes: the seven tags and their lengths. -/
theorem mapResp_default {t : Half} {rt : BitVec 2}
    (h : (t = 0x0001 ∨ t = 0x0008 ∨ t = 0x0040 ∨ t = 0x0080) ∧ rt = 2 ∨ t = 0x0004 ∧ rt = 1 ∨ t = 0x0002 ∧ rt = 3 ∨
      t = 0x0000 ∧ rt = 0) : mapResp Bits.default Codes.default t = some rt := by
  obtain ⟨rfl | rfl | rfl | rfl, rfl⟩ | ⟨rfl, rfl⟩ | ⟨rfl, rfl⟩ | ⟨rfl, rfl⟩ := h <;> rfl

/-- R131 in the default codes: any other tag is the invalid arm. -/
theorem mapResp_default_none {t : Half}
    (h : ∀ x ∈ ([0x0000, 0x0001, 0x0002, 0x0004, 0x0008, 0x0040, 0x0080] : List Half), t ≠ x) :
    mapResp Bits.default Codes.default t = none := by
  simp only [List.forall_mem_cons] at h
  obtain ⟨h0, h1, h2, h4, h8, h40, h80, -⟩ := h
  refine (if_neg ?_).trans ((if_neg h4).trans ((if_neg h2).trans (if_neg h0)))
  rintro (h | h | h | h)
  exacts [h1 h, h8 h, h40 h, h80 h]

theorem cmdFlags_default (rt : BitVec 2) (p : Bool) (t : BitVec 2) :
    cmdFlags Bits.default rt p t = rt.setWidth 8 ||| (if p then 0x20 else 0) ||| (t.setWidth 8 <<< 6) := by
  cases p <;> simp [cmdFlags, Bits.default]

/-- Settles O31: the tag's length or the invalid arm, then one write. -/
theorem sendMapAndTimeout : Obligations.SendMapAndTimeout := by
  unfold Obligations.SendMapAndTimeout
  rintro s c ⟨hb, hk, -⟩
  refine ⟨?_, ?_, ?_⟩
  · rintro rt ⟨hc, hst, -⟩ htag
    rw [exec_sendCommand_running hc]
    simp only [sendCommandStep, hst, scMap, hb, hk, mapResp_default htag, goTo]
  · rintro ⟨hc, hst, -⟩ hret htag
    rw [exec_sendCommand_running hc]
    simp only [sendCommandStep, hst, scMap, hb, hk, mapResp_default_none htag, finish_port _ hret]
  · rintro ⟨hc, hst, -⟩
    have hv : s.cfg.cmdTimeoutVal.setWidth 32 &&& Reg.bits .timeoutCtrl = s.cfg.cmdTimeoutVal.setWidth 32 :=
      setWidth_byte _
    rw [exec_sendCommand_running hc]
    simp only [sendCommandStep, hst, scTimeout, hb, cmdFlags_default,
      regWrite_storage (r := .timeoutCtrl) rfl nofun nofun, hv, goTo]

/-! ### SET_BUS_WIDTH -/

/-- R134 in the default codes: the three tags and their codes. -/
theorem busWidthCode_default {g : Cfg} {w : Half} {code : Byte} (hb : g.bits = Bits.default)
    (hk : g.codes = Codes.default) (h : w = 0 ∧ code = 0x00 ∨ w = 1 ∧ code = 0x02 ∨ w = 2 ∧ code = 0x20) :
    busWidthCode g w = some code := by
  rw [busWidthCode, hb, hk]
  obtain ⟨rfl, rfl⟩ | ⟨rfl, rfl⟩ | ⟨rfl, rfl⟩ := h <;> rfl

/-- R134 in the default codes: any other tag is unrecognised. -/
theorem busWidthCode_default_none {g : Cfg} {w : Half} (hk : g.codes = Codes.default) (h1 : w ≠ 0) (h4 : w ≠ 1)
    (h8 : w ≠ 2) : busWidthCode g w = none := by
  rw [busWidthCode, hk]
  exact (if_neg h1).trans ((if_neg h4).trans (if_neg h8))

/-- Settles O44: BW.1 by the tag, BW.2 by the position. -/
theorem setBusWidthSteps : Obligations.SetBusWidthSteps := by
  unfold Obligations.SetBusWidthSteps
  rintro s i ⟨hb, hk, -⟩ hi hc
  refine ⟨?_, ?_, ?_, ?_⟩
  · intro code hst htag
    rw [exec_width_running hi hc (.inl hst)]
    simp only [setBusWidthStep, hst, bwCode, busWidthCode_default hb hk htag, goTo]
  · intro hst h1 h4 h8
    rw [exec_width_running hi hc (.inl hst)]
    simp only [setBusWidthStep, hst, bwCode, busWidthCode_default_none hk h1 h4 h8]
  · intro hst hpos
    rw [exec_width_running hi hc (.inr hst)]
    simp only [setBusWidthStep, hst, bwWrite, hpos, if_true, goTo_regRead hst]
  · intro hst hpos
    rw [exec_width_running hi hc (.inr hst)]
    simp only [setBusWidthStep, hst, bwWrite, hpos, Nat.one_ne_zero, if_false]

/-! ### The capability words -/

/-- A field of a capability word, by a mask of `n` bits from `lo` on. -/
theorem toNat_maskedField {c mask : Word} {lo n : Nat} (hmask : mask.toNat >>> lo = 2 ^ n - 1) :
    ((c &&& mask) >>> lo).toNat = c.toNat / 2 ^ lo % 2 ^ n := by
  rw [BitVec.toNat_ushiftRight, BitVec.toNat_and, Nat.shiftRight_and_distrib, hmask, Nat.and_two_pow_sub_one_eq_mod,
    Nat.shiftRight_eq_div_pow]

/-- A flag of a capability word, by a mask of one bit. -/
theorem and_twoPow_ne_zero {w k : Nat} (c : BitVec w) (hk : k < w) :
    c &&& BitVec.twoPow w k ≠ 0 ↔ c.getLsbD k = true := by
  have hbit : (BitVec.twoPow w k).getLsbD k = true := by simp [hk]
  have hne : BitVec.twoPow w k ≠ 0#w := fun h => by simp [h] at hbit
  rw [BitVec.and_twoPow]
  cases c.getLsbD k with
  | false => simp
  | true => simpa using hne

theorem and_twoPow_bne_zero {w k : Nat} (c : BitVec w) (hk : k < w) : (c &&& BitVec.twoPow w k != 0) = c.getLsbD k := by
  rw [Bool.eq_iff_iff, bne_iff_ne]
  exact and_twoPow_ne_zero c hk

theorem capVoltage_default (c : Word) :
    capVoltage Bits.default c =
      if c.getLsbD 24 then 7 else if c.getLsbD 25 then 6 else if c.getLsbD 26 then 5 else 0 := by
  have h33 : c &&& Bits.default.cap33 ≠ 0 ↔ c.getLsbD 24 = true := and_twoPow_ne_zero c (k := 24) (by omega)
  have h30 : c &&& Bits.default.cap30 ≠ 0 ↔ c.getLsbD 25 = true := and_twoPow_ne_zero c (k := 25) (by omega)
  have h18 : c &&& Bits.default.cap18 ≠ 0 ↔ c.getLsbD 26 = true := and_twoPow_ne_zero c (k := 26) (by omega)
  simp only [capVoltage, h33, h30, h18]
  rfl

/-- Settles O42: each field of the record by the bits its mask keeps; the base clock stays below 2^32. -/
theorem capabilityDecode : Obligations.CapabilityDecode := by
  unfold Obligations.CapabilityDecode
  intro c1 c2
  refine ⟨⟨_, rfl, ?_⟩, ⟨_, rfl, toNat_maskedField rfl⟩, ?_, ?_, ?_, ?_, ?_, rfl⟩
  · have hmhz : ((c1 &&& Bits.default.clkRateMask) >>> Bits.default.clkRatePos).toNat = c1.toNat / 2 ^ 8 % 2 ^ 8 :=
      toNat_maskedField rfl
    rw [capBaseClk, BitVec.toNat_mul, hmhz]
    exact Nat.mod_eq_of_lt (show c1.toNat / 2 ^ 8 % 2 ^ 8 * 1000000 < 2 ^ 32 by omega)
  · exact congrArg some (and_twoPow_bne_zero c1 (k := 18) (by omega))
  · exact congrArg some (and_twoPow_bne_zero c1 (k := 19) (by omega))
  · exact congrArg some (capVoltage_default c1)
  · exact congrArg some (and_twoPow_bne_zero c2 (k := 2) (by omega))
  · exact congrArg some (and_twoPow_bne_zero c2 (k := 0) (by omega))

end Sys2Proof.Machine
end

section
/-! PROOFS. The statements of the family 40_power_handshake.md: the handler of the power interrupt, and the wait of INIT
that its signal ends. -/

namespace Sys2Proof.Machine

/-- R171 in the default bits: the four rows of the acknowledgment. -/
theorem ackWord_default {m ack : Word}
    (h : m &&& 0x3 = 0 ∧ m &&& 0xC = 0 ∧ ack = 0x0 ∨ m &&& 0x3 ≠ 0 ∧ m &&& 0xC = 0 ∧ ack = 0x1 ∨
      m &&& 0x3 = 0 ∧ m &&& 0xC ≠ 0 ∧ ack = 0x4 ∨ m &&& 0x3 ≠ 0 ∧ m &&& 0xC ≠ 0 ∧ ack = 0x5) :
    ackWord Bits.default m = ack := by
  rw [ackWord, show Bits.default.pwrIoReq = 0xC from rfl, show Bits.default.pwrBusReq = 0x3 from rfl]
  obtain ⟨hbus, hio, rfl⟩ | ⟨hbus, hio, rfl⟩ | ⟨hbus, hio, rfl⟩ | ⟨hbus, hio, rfl⟩ := h
  · rw [hbus, hio]
    rfl
  · rw [bne_iff_ne.2 hbus, hio]
    rfl
  · rw [hbus, bne_iff_ne.2 hio]
    rfl
  · rw [bne_iff_ne.2 hbus, bne_iff_ne.2 hio]
    rfl

/-- Settles O47: the handler is one step, and its acknowledgment is the row of R171 that the drawn mask selects. -/
theorem pwrIrqHandler : Obligations.PwrIrqHandler := by
  unfold Obligations.PwrIrqHandler
  rintro s m ack ⟨hb, -, -⟩ rfl hrow
  have hack : ackWord s.cfg.bits (drawValue pwrMaskNumber s) = ack := by rw [hb, ackWord_default hrow]
  simp only [exec, execPwrIrq, takePwrIrq, hack]
  rfl

/-- At IN.7 the running INIT waits for the event. -/
theorem exec_init_in7 {s : State} (h : At .init .in7 0 s) : exec .init s = .next (inWait s) := by
  obtain ⟨hc, hst, -⟩ := h
  rw [exec, execInit, runOp_running hc]
  simp only [initStep, hst]

theorem inWait_unsignalled {s : State} (h : s.ev = false) : inWait s = s := by simp [inWait, h]

theorem inWait_signalled {s : State} (h : s.ev = true) : inWait s = goTo .in8 0 (eventPass s) := by simp [inWait, h]

/-- With no schedule and the line delivered, a held caller context leaves the turn to the handler (R366). -/
theorem step_held_handler {s : State} (hs : s.env.sched = []) (hd : irqDeliverable s = true)
    (hheld : callerHeld s = true) : step s = exec .pwrIrq s := by
  simp only [step, hs, freeStep, hd, hheld, if_true]

/-- Settles O48: the wait by the event, and the step of the held context by the line. -/
theorem eventWaitAndRace : Obligations.EventWaitAndRace := by
  unfold Obligations.EventWaitAndRace
  intro s hat
  have ⟨hc, hst, _⟩ := hat
  have hwait : s.ev = false → exec .init s = .next s := fun hev => by rw [exec_init_in7 hat, inWait_unsignalled hev]
  obtain ⟨-, -, -, hfree, -⟩ := stepRunsInstruction
  refine ⟨hwait, fun hev => ?_, fun hev hs hp hm => ?_, fun hev hs hp => ?_⟩
  · rw [exec_init_in7 hat, inWait_signalled hev]
    rfl
  · exact step_held_handler hs (by simp [irqDeliverable, hp, hm]) (by simp [callerHeld, hst, hev])
  · rw [hfree s .init hs hc hp, hwait hev]

end Sys2Proof.Machine
end

section
/-! PROOFS. The statements of the family 41_clock_controller.md, first part: the divider search, and CLK_SUPPLY one
event at a time, alone and nested. -/

namespace Sys2Proof.Machine

/-! ### The divider search -/

/-- The search answers its first try whose rate does not exceed the target. -/
theorem divSearch_eq_some_iff {b f k d e : Nat} :
    divSearch b f k d = some e ↔ ∃ j < k, e = d + 2 * j ∧ b / e ≤ f ∧ ∀ i < j, f < b / (d + 2 * i) := by
  induction k generalizing d with
  | zero => simp [divSearch]
  | succ k ih =>
    unfold divSearch
    split
    · rename_i hfirst
      constructor
      · rintro ⟨⟩
        exact ⟨0, by omega, rfl, hfirst, by simp⟩
      · rintro ⟨j, -, rfl, -, hbefore⟩
        cases j with
        | zero => rfl
        | succ j => exact absurd (hbefore 0 (by omega)) (by simpa using hfirst)
    · rename_i hfirst
      rw [ih]
      constructor
      · rintro ⟨j, hj, rfl, hrate, hbefore⟩
        refine ⟨j + 1, by omega, by omega, hrate, fun i hi => ?_⟩
        cases i with
        | zero => exact Nat.lt_of_not_le hfirst
        | succ i => simpa [Nat.mul_succ, Nat.add_assoc, Nat.add_comm] using hbefore i (by omega)
      · rintro ⟨j, hj, rfl, hrate, hbefore⟩
        cases j with
        | zero => exact absurd hrate hfirst
        | succ j =>
          refine ⟨j, by omega, by omega, hrate, fun i hi => ?_⟩
          simpa [Nat.mul_succ, Nat.add_assoc, Nat.add_comm] using hbefore (i + 1) (by omega)

/-- The machine's search answers the divider of R193. -/
theorem findDiv_eq_some_iff {b freq maxDiv d : Nat} :
    findDiv b freq maxDiv = some d ↔ SelectsDivider b freq maxDiv d := by
  rw [findDiv, divSearch_eq_some_iff]
  constructor
  · rintro ⟨j, hj, rfl, hrate, hbefore⟩
    refine ⟨by omega, by omega, by omega, hrate, fun e heven h2 he => ?_⟩
    obtain ⟨i, rfl⟩ : ∃ i, e = 2 + 2 * i := ⟨e / 2 - 1, by omega⟩
    exact hbefore i (by omega)
  · rintro ⟨heven, h2, hmax, hrate, hbefore⟩
    exact ⟨d / 2 - 1, by omega, by omega, hrate, fun i hi => hbefore _ (by omega) (by omega) (by omega)⟩

theorem findDiv_eq_none {b freq maxDiv : Nat} (h : ∀ d, ¬ SelectsDivider b freq maxDiv d) :
    findDiv b freq maxDiv = none :=
  Option.eq_none_iff_forall_ne_some.2 fun d hd => h d (findDiv_eq_some_iff.1 hd)

/-- A divider reaches the target where it is above `b / (freq + 1)`. -/
theorem div_le_iff_div_succ_lt {b freq d : Nat} (hd : 0 < d) : b / d ≤ freq ↔ b / (freq + 1) < d := by
  rw [← Nat.lt_succ_iff, Nat.div_lt_iff_lt_mul hd, Nat.div_lt_iff_lt_mul (by omega), Nat.mul_comm]

/-- R193 by bounds alone: the first even number above `b / (freq + 1)`, which is at least 2. -/
theorem selectsDivider_iff {b freq maxDiv d : Nat} :
    SelectsDivider b freq maxDiv d ↔
      d % 2 = 0 ∧ 2 ≤ d ∧ d ≤ maxDiv ∧ b / (freq + 1) < d ∧ ∀ e, e % 2 = 0 → 2 ≤ e → e < d → e ≤ b / (freq + 1) := by
  refine and_congr_right fun _ => and_congr_right fun h2 => and_congr_right fun _ => and_congr
    (div_le_iff_div_succ_lt (by omega)) (forall_congr' fun e => forall_congr' fun _ => forall_congr' fun he =>
      forall_congr' fun _ => ?_)
  rw [← Nat.not_le, div_le_iff_div_succ_lt (by omega), Nat.not_lt]

/-- Settles O18: the first even number above `b / (freq + 1)`. -/
theorem dividerClosedForm : Obligations.DividerClosedForm := by
  unfold Obligations.DividerClosedForm
  intro b freq maxDiv d
  rw [findDiv_eq_some_iff, selectsDivider_iff]
  generalize b / (freq + 1) = q
  constructor
  · rintro ⟨heven, h2, hmax, hreach, hbefore⟩
    have hprev := hbefore (d - 2)
    omega
  · rintro ⟨rfl, hmax⟩
    exact ⟨by omega, by omega, hmax, by omega, fun e heven h2 he => by omega⟩

/-- Settles O19: a larger divider gives no larger rate, and a smaller one stays above the achieved rate too. -/
theorem dividerSearchProperties : Obligations.DividerSearchProperties := by
  unfold Obligations.DividerSearchProperties
  intro b freq maxDiv d hd
  rw [findDiv_eq_some_iff] at hd ⊢
  have ⟨heven, h2, hmax, hrate, hbefore⟩ := hd
  refine ⟨hd, hrate, fun e hev he2 _ hreach => ?_, heven, h2, hmax, le_rfl, fun e hev he2 he => ?_⟩
  · have hde : d ≤ e := Nat.le_of_not_lt fun he => absurd hreach (Nat.not_le.2 (hbefore e hev he2 he))
    exact Nat.div_le_div_left hde (by omega)
  · exact lt_of_le_of_lt hrate (hbefore e hev he2 he)

/-! ### CLK_SUPPLY, one event at a time -/

/-- At phase `p` of CLK_SUPPLY, alone or nested, its next event is performed. -/
theorem exec_clock_at {i : Instr} {s : State} {p : Phase} (hi : runsClock i = true) (hc : s.cur = some i)
    (hst : s.st = p) (hp : isCsPhase p = true) : exec i s = clkSupplyStep s :=
  exec_clock_running hi hc (hst ▸ hp)

/-- A status delivered on the port is the one record of a return. -/
theorem finish_trace (k : Status) (s : State) :
    (finish k s).trace = (if s.ret = none then [.answer k] else []) ++ s.trace := by
  cases h : s.ret <;> simp [finish, h]

/-- Settles O16: CS.1 by the comparison. -/
theorem clkRangeCheck : Obligations.ClkRangeCheck := by
  unfold Obligations.ClkRangeCheck
  intro s i b hi hc hst hb
  have hstep : exec i s = csRange s := by
    rw [exec_clock_at hi hc hst rfl]
    simp only [clkSupplyStep, hst]
  rw [hstep, csRange, hb]
  constructor
  · intro hlt
    refine ⟨by simp only [hlt, if_true], by simp, by simp, ?_⟩
    rw [finish_trace, callerRecords, List.filter_append]
    split <;> rfl
  · intro hle
    simp only [Nat.not_lt.2 hle, if_false, goTo]

/-- Settles O17: CS.2 by the comparison, CS.3 by what the search of R193 answers. -/
theorem clkDividerChoice : Obligations.ClkDividerChoice := by
  unfold Obligations.ClkDividerChoice
  intro s i hi hc
  have hcs2 : s.st = .cs2 → exec i s = .next (csPassThrough s) := fun hst => by
    rw [exec_clock_at hi hc hst rfl]
    simp only [clkSupplyStep, hst]
  have hcs3 : s.st = .cs3 → exec i s = .next (csSearch s) := fun hst => by
    rw [exec_clock_at hi hc hst rfl]
    simp only [clkSupplyStep, hst]
  refine ⟨fun hst heq => ?_, fun hst hne => ?_, fun hst heq => ?_, fun d hst hne hd => ?_, fun hst hne hnone => ?_⟩
  · rw [hcs2 hst, csPassThrough, if_pos heq, goTo]
  · rw [hcs2 hst, csPassThrough, if_neg hne, goTo]
  · rw [hcs3 hst, csSearch, if_pos heq, goTo]
  · rw [hcs3 hst, csSearch, if_neg hne]
    simp only [findDiv_eq_some_iff.2 hd, goTo]
  · rw [hcs3 hst, csSearch, if_neg hne, findDiv_eq_none hnone]

theorem spinExhausted_of_maySpin {s : State} (h : MaySpin s) : spinExhausted s = false := by
  cases hb : s.cfg.spinBound with
  | none => simp [spinExhausted, hb]
  | some b => simpa [spinExhausted, hb] using h b hb

theorem spinExhausted_of_bound {s : State} {b : Nat} (hb : s.cfg.spinBound = some b) (h : b ≤ s.work.spin) :
    spinExhausted s = true := by
  simp [spinExhausted, hb, h]

/-- Settles O21: the spin by its bound, then by the bit read. -/
theorem clkStableSpin : Obligations.ClkStableSpin := by
  unfold Obligations.ClkStableSpin
  intro s i hi hc hst hpos
  have hstep : exec i s = .next (csSpin s) := by
    rw [exec_clock_at hi hc hst rfl]
    simp only [clkSupplyStep, hst, hpos, if_true]
  rw [hstep, csSpin]
  refine ⟨fun hspin hstable => ?_, fun hspin hbusy => ?_, fun b hb hreached => ?_⟩
  · have hread : clkStable s.cfg.bits (readValue .clkCtrl s) = true := by simpa [clkStable] using hstable
    simp [spinExhausted_of_maySpin hspin, hread, goTo, hst]
  · have hread : clkStable s.cfg.bits (readValue .clkCtrl s) = false := by simpa [clkStable] using hbusy
    simp [spinExhausted_of_maySpin hspin, hread]
  · rw [spinExhausted_of_bound hb hreached]
    rfl

/-- Settles O22: the second event of CS.5, and CS.6. -/
theorem clkEnableAndRecord : Obligations.ClkEnableAndRecord := by
  unfold Obligations.ClkEnableAndRecord
  intro s i hi hc
  refine ⟨fun hst hpos => ?_, fun hst => ?_⟩
  · rw [exec_clock_at hi hc hst rfl]
    simp only [clkSupplyStep, hst, hpos, Nat.one_ne_zero, if_false, csEnable]
  · rw [exec_clock_at hi hc hst rfl]
    simp only [clkSupplyStep, hst, csRecord]

end Sys2Proof.Machine
end

section
/-! PROOFS. The statements of the family 41_clock_controller.md, second part: a whole CLK_SUPPLY. Its six phases are
stated for CLK_SUPPLY alone and nested. -/

namespace Sys2Proof.Machine

/-! ### CS.1 to CS.3: the divider -/

/-- `div` is the divider CLK_SUPPLY programs for the target `freq`: 0 where that is the base rate (R192), else that of
R193. -/
abbrev Divides (b freq maxDiv : Word) (div : Nat) : Prop :=
  freq = b ∧ div = 0 ∨ freq.toNat < b.toNat ∧ SelectsDivider b.toNat freq.toNat maxDiv.toNat div

theorem Divides.toNat_ofNat {b freq maxDiv : Word} {div : Nat} (h : Divides b freq maxDiv div) :
    (BitVec.ofNat 32 div).toNat = div := by
  rw [BitVec.toNat_ofNat, Nat.mod_eq_of_lt]
  obtain ⟨-, rfl⟩ | ⟨-, -, -, hmax, -⟩ := h
  · omega
  · exact hmax.trans_lt maxDiv.isLt

/-- `s`, which stands before CS.1, once the divider `div` is chosen for the base rate `b` (R192, R193). -/
def clockDivided (b : Word) (div : Nat) (s : State) : State :=
  { s with
    st := .cs4, pos := 0
    work := { s.work with
      base := b, div := BitVec.ofNat 32 div
      achieved := if div = 0 then b else BitVec.ofNat 32 (b.toNat / div) } }

/-- CS.1 to CS.3 where a divider gives the target. -/
theorem execs_divider {i : Instr} {s : State} {b : Word} {div : Nat} (hi : runsClock i = true) (hc : s.cur = some i)
    (hst : s.st = .cs1) (hb : s.h.baseClkRate = some b) (hdiv : Divides b s.work.freq s.cfg.maxDiv div) :
    execs 3 i s = .next (clockDivided b div s) := by
  have hrange := (clkRangeCheck s i b hi hc hst hb).2
  obtain ⟨hpass, hother, -, -, -⟩ :=
    clkDividerChoice { s with st := .cs2, pos := 0, work := { s.work with base := b } } i hi hc
  obtain ⟨heq, rfl⟩ | ⟨hlt, hsel⟩ := hdiv
  · obtain ⟨-, -, hdone, -, -⟩ := clkDividerChoice
      { s with st := .cs3, pos := 0, work := { s.work with base := b, div := 0, achieved := b } } i hi hc
    rw [execs_succ (hrange (by rw [heq])), execs_succ (hpass rfl heq), execs_succ (hdone rfl heq)]
    rfl
  · have hne : s.work.freq ≠ b := fun h => by simp [h] at hlt
    have hpos : div ≠ 0 := by
      obtain ⟨-, h2, -⟩ := hsel
      omega
    obtain ⟨-, -, -, hsearch, -⟩ := clkDividerChoice
      { s with st := .cs3, pos := 0, work := { s.work with base := b } } i hi hc
    rw [execs_succ (hrange hlt.le), execs_succ (hother rfl hne), execs_succ (hsearch div rfl hne hsel), clockDivided,
      if_neg hpos]
    rfl

/-! ### CS.5: the spin -/

/-- `i` spins at CS.5 with no bound, and CLK_CTRL holds `w` but for its volatile bit. -/
structure Settling (i : Instr) (w : Word) (s : State) : Prop where
  bits    : s.cfg.bits = Bits.default
  runs    : runsClock i = true
  cur     : s.cur = some i
  st      : s.st = .cs5
  pos     : s.pos = 0
  noBound : s.cfg.spinBound = none
  known   : s.ctl.known .clkCtrl = true
  word    : s.ctl.get .clkCtrl &&& ~~~0x0002 = w

@[simp] theorem put_put (c : Ctl) (r : Reg) (v w : Word) : (c.put r v).put r w = c.put r w := by cases r <;> rfl

theorem known_put_ne {r q : Reg} (c : Ctl) (v : Word) (h : q ≠ r) : (c.put r v).known q = c.known q := by
  simp [known_put, h]

/-- CLK_STABLE, the one volatile bit of CLK_CTRL in the default bits (10_state.md R40, R45; log 14). -/
theorem and_volatile_of_ne_zero {v : Word} (h : v &&& 0x0002 ≠ 0) : v &&& 0x0002 = 0x0002 := by
  have hv : v &&& BitVec.twoPow 32 1 ≠ 0 := h
  have hbit := (and_twoPow_ne_zero v (by omega)).1 hv
  exact (BitVec.and_twoPow v 1).trans (if_pos hbit)

/-- `s` after a read of CLK_CTRL that answers `w`, without CLK_STABLE. -/
def busyRead (w : Word) (rest : List Word) (s : State) : State :=
  { s with
    work := { s.work with spin := s.work.spin + 1 }
    ctl := s.ctl.put .clkCtrl w
    env := { s.env with reads := rest, draws := s.env.draws + 1 }
    trace := .caller (.regRead .clkCtrl w) :: s.trace }

/-- `s`, in the spin, after `n` reads without CLK_STABLE and the one that shows it. -/
def clockSettled (w : Word) (n : Nat) (rest : List Word) (s : State) : State :=
  { s with
    pos := 1
    work := { s.work with tmp := w ||| 0x0002, spin := s.work.spin + n }
    ctl := s.ctl.put .clkCtrl (w ||| 0x0002)
    env := { s.env with reads := rest, draws := s.env.draws + n + 1 }
    trace := .caller (.regRead .clkCtrl (w ||| 0x0002)) ::
      (List.replicate n (.caller (.regRead .clkCtrl w)) ++ s.trace) }

theorem clockSettled_busyRead (w : Word) (n : Nat) (rest rest' : List Word) (s : State) :
    clockSettled w n rest (busyRead w rest' s) = clockSettled w (n + 1) rest s := by
  have hspin : s.work.spin + 1 + n = s.work.spin + (n + 1) := by omega
  have hdraws : s.env.draws + 1 + n = s.env.draws + (n + 1) := by omega
  simp [clockSettled, busyRead, hspin, hdraws, List.replicate_succ']

section
variable {i : Instr} {w v : Word} {rest : List Word} {s : State} (h : Settling i w s)
include h

theorem Settling.word_width : w &&& Reg.bits .clkCtrl = w := by
  rw [← h.word, BitVec.and_assoc, BitVec.and_comm _ (Reg.bits .clkCtrl), ← BitVec.and_assoc, get_width]

theorem Settling.word_stable : w &&& ~~~0x0002 = w := by
  rw [← h.word, BitVec.and_assoc, BitVec.and_self]

theorem Settling.maySpin : MaySpin s := fun b hb => by simp [h.noBound] at hb

theorem Settling.drawnBits_eq : drawnBits .clkCtrl s = 0x0002 := by
  rw [drawnBits, h.known, if_pos rfl, h.bits]
  rfl

/-- A read answers the word with the volatile bit of the environment's answer. -/
theorem Settling.readValue_eq (hr : s.env.reads = v :: rest) : readValue .clkCtrl s = w ||| (v &&& 0x0002) := by
  rw [readValue, h.drawnBits_eq, h.word, drawValue, hr]

theorem Settling.readValue_stable (hr : s.env.reads = v :: rest) :
    readValue .clkCtrl s &&& s.cfg.bits.clkStable.setWidth 32 = v &&& 0x0002 := by
  have hbit : s.cfg.bits.clkStable.setWidth 32 = (0x0002 : Word) := by rw [h.bits]; rfl
  have hclear : w &&& 0x0002 = 0#32 := by
    rw [← h.word_stable, BitVec.and_assoc]
    exact BitVec.and_zero
  rw [h.readValue_eq hr, hbit, BitVec.and_or_distrib_right, hclear, BitVec.zero_or, BitVec.and_assoc, BitVec.and_self]

theorem Settling.regRead_eq (hr : s.env.reads = v :: rest) :
    regRead .clkCtrl s = { s with
      ctl := s.ctl.put .clkCtrl (w ||| (v &&& 0x0002))
      env := { s.env with reads := rest, draws := s.env.draws + 1 }
      trace := .caller (.regRead .clkCtrl (w ||| (v &&& 0x0002))) :: s.trace } := by
  rw [regRead, h.readValue_eq hr, h.drawnBits_eq]
  simp [emit, afterDraw, hr]

/-- The read that shows CLK_STABLE ends the spin. -/
theorem Settling.exec_stable (hr : s.env.reads = v :: rest) (hv : v &&& 0x0002 ≠ 0) :
    exec i s = .next (clockSettled w 0 rest s) := by
  have hstep := (clkStableSpin s i h.runs h.cur h.st h.pos).1 h.maySpin (by rwa [h.readValue_stable hr])
  rw [hstep, h.regRead_eq hr, h.readValue_eq hr, and_volatile_of_ne_zero hv]
  rfl

/-- A read that does not show CLK_STABLE keeps the engine in the phase. -/
theorem Settling.exec_busy (hr : s.env.reads = v :: rest) (hv : v &&& 0x0002 = 0) :
    exec i s = .next (busyRead w rest s) := by
  have hstep := (clkStableSpin s i h.runs h.cur h.st h.pos).2.1 h.maySpin (by rwa [h.readValue_stable hr])
  have hword : w ||| (v &&& 0x0002) = w := by
    rw [hv]
    exact BitVec.or_zero
  rw [hstep, h.regRead_eq hr, hword]
  rfl

theorem Settling.next : Settling i w (busyRead w rest s) :=
  { h with
    known := by simp [busyRead, known_put]
    word := by simp only [busyRead, get_put_same, h.word_width, h.word_stable] }

/-- CS.5, the whole spin: the reads of a clock that settles, and the one that shows it stable. -/
theorem Settling.execs_spin {busy : List Word} (hr : s.env.reads = busy ++ v :: rest)
    (hbusy : ∀ x ∈ busy, x &&& 0x0002 = 0) (hv : v &&& 0x0002 ≠ 0) :
    execs (busy.length + 1) i s = .next (clockSettled w busy.length rest s) := by
  induction busy generalizing s with
  | nil => exact execs_succ (h.exec_stable hr hv)
  | cons x busy ih =>
    obtain ⟨hx, hrest⟩ := List.forall_mem_cons.1 hbusy
    rw [List.length_cons, execs_succ (h.exec_busy (rest := busy ++ v :: rest) hr hx), ih h.next rfl hrest,
      clockSettled_busyRead]

end

/-! ### CS.4 and CS.5: the clock word, the spin and the enable -/

theorem or_clkCtrl_width {w v : Word} (hw : w &&& Reg.bits .clkCtrl = w) (hv : v &&& Reg.bits .clkCtrl = v) :
    (w ||| v) &&& Reg.bits .clkCtrl = w ||| v := by
  rw [BitVec.and_or_distrib_right, hw, hv]

/-- The write of the word read, with CLK_EN: CLK_CTRL keeps its volatile bit. -/
theorem regWrite_clkEnabled {s : State} {w : Word} (hb : s.cfg.bits = Bits.default) (hw : w &&& Reg.bits .clkCtrl = w)
    (hget : s.ctl.get .clkCtrl = w ||| 0x0002) :
    regWrite .clkCtrl (w ||| 0x0002 ||| s.cfg.bits.clkEn.setWidth 32) s = { s with
      ctl := s.ctl.put .clkCtrl (w ||| 0x0006)
      trace := .caller (.regWrite .clkCtrl (w ||| 0x0006)) :: s.trace } := by
  have hword : w ||| 0x0002 ||| Bits.default.clkEn.setWidth 32 = w ||| 0x0006 := BitVec.or_assoc _ _ _
  have hbits : (w ||| 0x0006) &&& Reg.bits .clkCtrl = w ||| 0x0006 := or_clkCtrl_width hw rfl
  have hkept : ((w ||| 0x0006) &&& ~~~0x0002) ||| ((w ||| 0x0002) &&& 0x0002) = w ||| 0x0006 := by
    refine BitVec.eq_of_getLsbD_eq fun k hk => ?_
    interval_cases k <;> simp
  have hvol : Bits.default.clkVolatile.setWidth 32 = (0x0002 : Word) := rfl
  simp only [regWrite, emit, hword, hbits, Ctl.written, hb, hget, hvol, hkept]
  rfl

/-- CS.5, the enable, where the last value read is `w` with CLK_STABLE. -/
theorem exec_clkEnable {i : Instr} {s : State} {w : Word} (hi : runsClock i = true) (hc : s.cur = some i)
    (hst : s.st = .cs5) (hpos : s.pos = 1) (hb : s.cfg.bits = Bits.default) (hw : w &&& Reg.bits .clkCtrl = w)
    (htmp : s.work.tmp = w ||| 0x0002) (hget : s.ctl.get .clkCtrl = w ||| 0x0002) :
    exec i s = .next { s with
      st := .cs6, pos := 0
      ctl := s.ctl.put .clkCtrl (w ||| 0x0006)
      trace := .caller (.regWrite .clkCtrl (w ||| 0x0006)) :: s.trace } := by
  obtain ⟨henable, -⟩ := clkEnableAndRecord s i hi hc
  rw [henable hst hpos, htmp, regWrite_clkEnabled hb hw hget]
  rfl

/-- The clock word lies in the 16 bits of CLK_CTRL. -/
theorem ruleClkWord_width (div : Nat) : ruleClkWord div &&& Reg.bits .clkCtrl = ruleClkWord div := by
  change ruleClkWord div &&& 0xFFFF = ruleClkWord div
  refine BitVec.eq_of_getLsbD_eq fun k hk => ?_
  interval_cases k <;> simp [ruleClkWord]

/-- The clock word leaves the volatile bit of CLK_CTRL clear. -/
theorem ruleClkWord_stable (div : Nat) : ruleClkWord div &&& ~~~0x0002 = ruleClkWord div := by
  refine BitVec.eq_of_getLsbD_eq fun k hk => ?_
  interval_cases k <;> simp [ruleClkWord]

/-- `s`, which stands before CS.4, once the clock word `w` is written (R194). -/
def clockWritten (w : Word) (s : State) : State :=
  { s with
    st := .cs5, pos := 0
    work := { s.work with clk := w.setWidth 16, spin := 0 }
    ctl := s.ctl.put .clkCtrl (w ||| (s.ctl.get .clkCtrl &&& 0x0002))
    trace := .caller (.regWrite .clkCtrl w) :: s.trace }

/-- What CS.4 leaves settles on the clock word. -/
theorem settling_clockWritten {i : Instr} {s : State} (hb : s.cfg.bits = Bits.default) (hi : runsClock i = true)
    (hc : s.cur = some i) (hspin : s.cfg.spinBound = none) (div : Nat) :
    Settling i (ruleClkWord div) (clockWritten (ruleClkWord div) s) where
  bits := hb
  runs := hi
  cur := hc
  st := rfl
  pos := rfl
  noBound := hspin
  known := by simp [clockWritten, known_put]
  word := by
    have hold : s.ctl.get .clkCtrl &&& 0x0002 &&& ~~~0x0002 = 0#32 := by
      rw [BitVec.and_assoc]
      exact BitVec.and_zero
    simp only [clockWritten, get_put_same]
    rw [BitVec.and_assoc, BitVec.and_comm (Reg.bits _), ← BitVec.and_assoc, BitVec.and_or_distrib_right, hold,
      ruleClkWord_stable, BitVec.or_zero, ruleClkWord_width]

/-- `s`, which stands before CS.4, once the clock it programs with the word `w` is stable after `n` reads that were not,
and enabled. -/
def clockEnabled (w : Word) (n : Nat) (rest : List Word) (s : State) : State :=
  { s with
    st := .cs6, pos := 0
    work := { s.work with clk := w.setWidth 16, tmp := w ||| 0x0002, spin := n }
    ctl := s.ctl.put .clkCtrl (w ||| 0x0006)
    env := { s.env with reads := rest, draws := s.env.draws + n + 1 }
    trace := .caller (.regWrite .clkCtrl (w ||| 0x0006)) :: .caller (.regRead .clkCtrl (w ||| 0x0002)) ::
      (List.replicate n (.caller (.regRead .clkCtrl w)) ++ .caller (.regWrite .clkCtrl w) :: s.trace) }

/-- CS.4 and CS.5, whatever number of reads the clock takes to settle. -/
theorem execs_clockEnabled {i : Instr} {s : State} {busy rest : List Word} {v : Word} (hstd : Standard s)
    (hi : runsClock i = true) (hc : s.cur = some i) (hst : s.st = .cs4) (hspin : s.cfg.spinBound = none)
    (hr : s.env.reads = busy ++ v :: rest) (hbusy : ∀ x ∈ busy, x &&& 0x0002 = 0) (hv : v &&& 0x0002 ≠ 0) :
    execs (busy.length + 3) i s = .next (clockEnabled (ruleClkWord s.work.div.toNat) busy.length rest s) := by
  have hb := hstd.1
  have hwrite := (clkWordWrite s i hstd hi hc hst).2
  have hsettling := settling_clockWritten hb hi hc hspin s.work.div.toNat
  generalize ruleClkWord s.work.div.toNat = w at hwrite hsettling ⊢
  have hspun := hsettling.execs_spin hr hbusy hv
  have hget : (s.ctl.put .clkCtrl (w ||| 0x0002)).get .clkCtrl = w ||| 0x0002 := by
    rw [get_put_same, or_clkCtrl_width hsettling.word_width rfl]
  have henable := exec_clkEnable (s := clockSettled w busy.length rest (clockWritten w s)) hi hc rfl rfl hb
    hsettling.word_width rfl hget
  calc execs (busy.length + 3) i s
    _ = execs (busy.length + 1 + 1) i (clockWritten w s) := execs_succ hwrite
    _ = execs 1 i (clockSettled w busy.length rest (clockWritten w s)) := execs_add hspun
    _ = .next (clockEnabled w busy.length rest s) :=
      (execs_succ henable).trans (by simp [execs, clockEnabled, clockSettled, clockWritten])

/-! ### A whole CLK_SUPPLY -/

/-- `s`, which stands before CS.1, once the clock is programmed, enabled and recorded, before CS.6 returns. -/
def clockSupplied (b : Word) (div n : Nat) (rest : List Word) (s : State) : State :=
  { clockEnabled (ruleClkWord div) n rest (clockDivided b div s) with
    h := { s.h with curClkRate := some (clockDivided b div s).work.achieved } }

/-- CS.1 to CS.6, alone or nested, where a divider gives the target. -/
theorem execs_clockSupplied {i : Instr} {s : State} {b v : Word} {div : Nat} {busy rest : List Word} (hstd : Standard s)
    (hi : runsClock i = true) (hc : s.cur = some i) (hst : s.st = .cs1) (hb : s.h.baseClkRate = some b)
    (hdiv : Divides b s.work.freq s.cfg.maxDiv div) (hspin : s.cfg.spinBound = none)
    (hr : s.env.reads = busy ++ v :: rest) (hbusy : ∀ x ∈ busy, x &&& 0x0002 = 0) (hv : v &&& 0x0002 ≠ 0) :
    execs (busy.length + 7) i s = .next (finish .success (clockSupplied b div busy.length rest s)) := by
  have henabled := execs_clockEnabled (s := clockDivided b div s) hstd hi hc rfl hspin hr hbusy hv
  have hword : (clockDivided b div s).work.div.toNat = div := hdiv.toNat_ofNat
  rw [hword] at henabled
  obtain ⟨-, hrecord⟩ :=
    clkEnableAndRecord (clockEnabled (ruleClkWord div) busy.length rest (clockDivided b div s)) i hi hc
  calc execs (busy.length + 7) i s
    _ = execs (3 + (busy.length + 3 + 1)) i s := by rw [Nat.add_left_comm]
    _ = execs (busy.length + 3 + 1) i (clockDivided b div s) := execs_add (execs_divider hi hc hst hb hdiv)
    _ = execs 1 i (clockEnabled (ruleClkWord div) busy.length rest (clockDivided b div s)) := execs_add henabled
    _ = .next (finish .success (clockSupplied b div busy.length rest s)) := execs_succ (hrecord rfl)

/-- `s` with CLK_SUPPLY accepted (10_state.md R25, R31). -/
def clockAccepted (freq : Word) (s : State) : State :=
  { s with
    cur := some (.clkSupply freq), st := .cs1, pos := 0, ret := none, home := .idle
    work := { Work.blank with freq := freq } }

theorem exec_clockAccepted {freq b : Word} {s : State} (h : Ready s) (hb : s.h.baseClkRate = some b) :
    exec (.clkSupply freq) s = .next (clockAccepted freq s) := by
  rw [exec, execClkSupply, runOp_ready h (.inr rfl) rfl, hb, if_neg nofun]
  rfl

/-- Settles O23: acceptance, then the six phases. -/
theorem clkSupplyRun : Obligations.ClkSupplyRun := by
  unfold Obligations.ClkSupplyRun
  intro s freq b div busy v rest hstd hready hb hspin hdiv hreads hbusy hv
  have hwidth : (ruleClkWord div ||| 0x0006) &&& Reg.bits .clkCtrl = ruleClkWord div ||| 0x0006 :=
    or_clkCtrl_width (ruleClkWord_width div) rfl
  have hrun := execs_clockSupplied (i := .clkSupply freq) (s := clockAccepted freq s) hstd rfl rfl rfl hb hdiv hspin
    hreads hbusy hv
  have hend := finish_port .success (s := clockSupplied b div busy.length rest (clockAccepted freq s)) rfl
  refine ⟨_, (execs_succ (exec_clockAccepted hready hb)).trans hrun, hend, ?_⟩
  rw [hend]
  exact ⟨(get_put_same _ _ _).trans hwidth, fun r hr => ⟨get_put_ne _ _ hr, known_put_ne _ _ hr⟩, rfl, rfl, rfl⟩

end Sys2Proof.Machine
end

section
/-! PROOFS. The statements of the family 42_descriptor_builder.md: the operand domain of BUILD_TABLE, its allocation, and
the lengths of the entries. The count is read as the one number of lines that reach the length and not one line less. -/

namespace Sys2Proof.Machine

/-! ### The lengths of the entries -/

/-- `m + 1` entries are those for which `m` lines fall short of the length and `m + 1` lines reach it. -/
theorem entryCount_eq_succ_iff {maxLine len m : Nat} (hline : 1 ≤ maxLine) (hlen : 1 ≤ len) :
    entryCount maxLine len = m + 1 ↔ m * maxLine < len ∧ len ≤ (m + 1) * maxLine := by
  have hcount : entryCount maxLine len = (len - 1) / maxLine + 1 := by
    unfold entryCount
    split
    · rw [Nat.div_eq_of_lt (by omega)]
    · rw [Nat.sub_add_comm hlen, Nat.add_div_right _ hline]
  rw [hcount, Nat.add_right_cancel_iff, Nat.div_eq_iff hline, Nat.succ_mul]
  omega

/-- An entry before the last covers a whole line. -/
theorem entryLen_of_lt {maxLine rem : Word} {n i : Nat} (hi : i + 1 < n) : entryLen maxLine n i rem = maxLine :=
  if_pos hi

/-- The last entry covers what the `m` lines before it leave (42_descriptor_builder.md R222). -/
theorem toNat_entryLen_last {maxLine len : Word} {m : Nat} (hm : m * maxLine.toNat < len.toNat) :
    (entryLen maxLine (m + 1) m (len - BitVec.ofNat 32 (m * maxLine.toNat))).toNat =
      len.toNat - m * maxLine.toNat := by
  rw [entryLen, if_neg (lt_irrefl _)]
  simp only [BitVec.toNat_sub, BitVec.toNat_ofNat]
  omega

/-- Entries of one length cover it as often as they are. -/
theorem sum_map_range_of_eq {L : Nat → Nat} {c i : Nat} (h : ∀ j < i, L j = c) : ((List.range i).map L).sum = i * c := by
  rw [List.map_congr_left (g := fun _ => c) fun j hj => h j (List.mem_range.1 hj)]
  simp

/-- Settles O28: with `m + 1` entries, `m` cover a line each, and the last covers the rest, which is at most a line. -/
theorem entryLengthsTile : Obligations.EntryLengthsTile := by
  unfold Obligations.EntryLengthsTile
  intro maxLine len n L hline hlen hn hL
  obtain ⟨m, rfl⟩ : ∃ m, n = m + 1 := Nat.exists_eq_add_of_le' (hn ▸ ruleCount_pos hline)
  obtain ⟨hshort, hreach⟩ := (entryCount_eq_succ_iff hline hlen).1 hn.symm
  have hfull : ∀ i < m, L i = maxLine.toNat := fun i hi => by rw [hL, entryLen_of_lt (by omega)]
  have hlast : L m = len.toNat - m * maxLine.toNat := (hL m).trans (toNat_entryLen_last hshort)
  rw [Nat.succ_mul] at hreach
  refine ⟨fun i hi => ?_, ?_, fun i hi => sum_map_range_of_eq fun j hj => hfull j (by omega), ?_, fun k hk hmul => ?_⟩
  · obtain hi | rfl := Nat.lt_succ_iff_lt_or_eq.1 hi
    · rw [hfull i hi]
      exact ⟨hline, le_rfl⟩
    · omega
  · rw [List.range_succ, List.map_append, List.sum_append, sum_map_range_of_eq hfull, List.map_singleton,
      List.sum_singleton, hlast]
    omega
  · have hone := entryCount_eq_succ_iff (m := 0) hline hlen
    rw [hn, hone]
    omega
  · obtain ⟨j, rfl⟩ := Nat.exists_eq_add_of_le' hk.le
    rw [Nat.succ_mul] at hmul
    have hj : entryCount maxLine.toNat len.toNat = j + 1 :=
      (entryCount_eq_succ_iff hline hlen).2 ⟨by omega, by rw [Nat.succ_mul]; omega⟩
    obtain rfl : m = j := Nat.succ.inj (hn.trans hj)
    exact ⟨rfl, by rw [Nat.add_sub_cancel, hlast]; omega⟩

/-! ### The operand domain -/

/-- IDLE refuses a request whose operands break a limit by the name of that limit. -/
theorem runOp_outsideDomain {i : Instr} {start next : State → Result} {s : State} {e : DomainError} (h : Ready s)
    (hc : isConfigOp i = false) (he : domainError s.cfg i = some e) :
    runOp i start next s = .refused (.outsideDomain e) := by
  refine runOp_refused h.1 h.not_aborted ?_
  obtain ⟨_, hst, hb⟩ := h
  simp [admission, hst, hb, hc, he]

/-- Settles O12: the two limits of the operand domain, and acceptance inside it. -/
theorem operandDomainOfBuildTable : Obligations.OperandDomainOfBuildTable := by
  unfold Obligations.OperandDomainOfBuildTable
  intro s addr len h
  have hpos : len ≠ 0 → 0 < len.toNat := fun hlen => by bv_omega
  refine ⟨fun hlen => ?_, fun hlen hwrap => ?_, fun hlen hfit => exec_tableAccepted h (hpos hlen) hfit⟩
  · exact runOp_outsideDomain h rfl (if_pos (congrArg BitVec.toNat hlen))
  · exact runOp_outsideDomain h rfl ((if_neg (hpos hlen).ne').trans (if_pos hwrap))

/-! ### The allocation -/

/-- At BT.1 a running BUILD_TABLE allocates its table, alone or nested. -/
theorem exec_table_bt1 {i : Instr} {s : State} (hi : runsTable i = true) (hc : s.cur = some i) (hst : s.st = .bt1) :
    exec i s = .next (btAlloc s) := by
  rw [exec_table_running hi hc (.inl hst)]
  simp only [buildTableStep, hst]

/-- The answer `fail` is handed on. -/
theorem allocAnswer_of_fail {n len : Nat} {buf : Word} {s : State} (hans : Answers s none) :
    allocAnswer n buf len s = none := by
  simp only [Answers] at hans
  simp only [allocAnswer]
  cases hnext : s.env.allocs <;> rw [hnext] at hans <;> simp only [← hans]

/-- Settles O25: the allocator's answer, taken or `fail`, decides how BT.1 ends. -/
theorem tableAllocation : Obligations.TableAllocation := by
  unfold Obligations.TableAllocation
  intro s i hi hc hst
  have hcount : entryCount s.cfg.maxLine.toNat s.work.len.toNat = ruleCount s.cfg.maxLine.toNat s.work.len.toNat := rfl
  rw [exec_table_bt1 hi hc hst]
  refine ⟨fun t hans halign hfit hbuf hlive => ?_, fun hans => ?_⟩
  · have ht := allocAnswer_of_contract hans halign hfit hbuf hlive
    simp [btAlloc, hcount, ht, alloc, goTo, emit]
  · have ht := allocAnswer_of_fail (n := 8 * ruleCount s.cfg.maxLine.toNat s.work.len.toNat) (buf := s.work.addr)
      (len := s.work.len.toNat) hans
    simp [btAlloc, hcount, ht, alloc, fatalAbort, emit]

end Sys2Proof.Machine
end

section
/-! PROOFS. The statements of the family 43_command_engine.md, first part: SOFT_RESET, the two polls of SEND_COMMAND and
its reading of the error status, one event at a time. -/

namespace Sys2Proof.Machine

/-! ### SOFT_RESET, one event at a time -/

/-- In its two phases, alone or nested, a running SOFT_RESET performs its next event. -/
theorem exec_reset_running {i : Instr} {s : State} (hi : runsReset i = true) (hc : s.cur = some i)
    (hp : s.st = .sr1 ∨ s.st = .sr2) : exec i s = softResetStep s := by
  cases i with
  | init =>
    refine (runOp_running hc).trans ?_
    obtain h | h := hp <;> simp only [initStep, h]
  | sendCommand c =>
    rw [exec_sendCommand_running hc]
    obtain h | h := hp <;> simp only [sendCommandStep, h]
  | softReset m => exact runOp_running hc
  | _ => cases hi

/-- Settles O29: SR.1 by its one write, SR.2 by the bound of the spin, then by the bits read. -/
theorem softResetSteps : Obligations.SoftResetSteps := by
  unfold Obligations.SoftResetSteps
  intro s i hi hc
  have hwrite : s.st = .sr1 → exec i s = .next (srWrite s) := fun hst => by
    rw [exec_reset_running hi hc (.inl hst)]
    simp only [softResetStep, hst]
  have hspin : s.st = .sr2 → exec i s = .next (srSpin s) := fun hst => by
    rw [exec_reset_running hi hc (.inr hst)]
    simp only [softResetStep, hst]
  refine ⟨fun hst => ?_, fun hst hmay hclear => ?_, fun hst hmay hset => ?_, fun b hst hb hreached => ?_⟩
  · rw [hwrite hst, srWrite]
  · rw [hspin hst, srSpin, if_neg (by simp [spinExhausted_of_maySpin hmay])]
    simp only [hclear, if_true]
  · rw [hspin hst, srSpin, if_neg (by simp [spinExhausted_of_maySpin hmay])]
    simp only [hset, if_false, regRead_fields]
  · rw [hspin hst, srSpin, if_pos (spinExhausted_of_bound hb hreached), fatalAbort]

/-! ### SC.6 and SC.8: the polls -/

/-- A write to NRML_INT_STS of bits that it has, ERR_INT not among them, clears those bits (10_state.md R47). -/
theorem regWrite_nrmlIntSts {s : State} {v : Word} (hwidth : v &&& Reg.bits .nrmlIntSts = v)
    (herr : v &&& ~~~(s.cfg.bits.errInt.setWidth 32) = v) :
    regWrite .nrmlIntSts v s =
      { s with
        ctl := s.ctl.put .nrmlIntSts (s.ctl.get .nrmlIntSts &&& ~~~v)
        trace := .caller (.regWrite .nrmlIntSts v) :: s.trace } := by
  simp [regWrite, emit, hwidth, Ctl.written, herr]

/-- Settles O33: the read of SC.6 by its bit, the delay by the count, and the write that clears the bit. -/
theorem sendCmdPoll : Obligations.SendCmdPoll := by
  unfold Obligations.SendCmdPoll
  rintro s c ⟨hb, -, -⟩
  have hpoll : s.cur = some (.sendCommand c) → s.st = .sc6 → exec (.sendCommand c) s = .next (scCmdPoll s) := by
    intro hc hst
    rw [exec_sendCommand_running hc]
    simp only [sendCommandStep, hst]
  refine ⟨?_, ?_, ?_, ?_, ?_⟩
  · rintro ⟨hc, hst, hpos⟩ hset
    have hdone : cmdComplete s.cfg.bits (readValue .nrmlIntSts s) = true := by
      rw [hb]
      exact bne_iff_ne.2 hset
    simp [hpoll hc hst, scCmdPoll, hpos, hdone, goTo, hst]
  · rintro ⟨hc, hst, hpos⟩ hclear
    have hdone : cmdComplete s.cfg.bits (readValue .nrmlIntSts s) = false := by
      rw [hb]
      exact bne_eq_false_iff_eq.2 hclear
    simp [hpoll hc hst, scCmdPoll, hpos, hdone, goTo, hst]
  · rintro ⟨hc, hst, hpos⟩ hn
    simp only [hpoll hc hst, scCmdPoll, hpos, if_neg hn, goTo, hst, delay, emit]
  · rintro ⟨hc, hst, hpos⟩ hn
    simp only [hpoll hc hst, scCmdPoll, hpos, if_pos hn, goTo, delay, emit]
  · rintro ⟨hc, hst, hpos⟩
    have hwrite := regWrite_nrmlIntSts (s := s) (v := 0x0001) rfl (by rw [hb]; rfl)
    have hbit : s.cfg.bits.cmdComplete.setWidth 32 = (0x0001 : Word) := by rw [hb]; rfl
    simp only [hpoll hc hst, scCmdPoll, hpos, hbit, hwrite, goTo]

/-- Settles O35: whether there is a poll, and the poll by its bit and its count. -/
theorem sendTransPoll : Obligations.SendTransPoll := by
  unfold Obligations.SendTransPoll
  rintro s c ⟨hb, -, -⟩
  have hpoll : s.cur = some (.sendCommand c) → s.st = .sc8 → exec (.sendCommand c) s = .next (scTransPoll c s) := by
    intro hc hst
    rw [exec_sendCommand_running hc]
    simp only [sendCommandStep, hst]
  refine ⟨?_, ?_, ?_, ?_, ?_, ?_, ?_⟩
  · rintro ⟨hc, hst, hpos⟩ hpolls
    simp [hpoll hc hst, scTransPoll, hpos, hpolls, goTo, hst]
  · rintro ⟨hc, hst, hpos⟩ hdata hswitch
    simp [hpoll hc hst, scTransPoll, hpos, hdata, hswitch, goTo]
  · rintro ⟨hc, hst, hpos⟩ hset
    have hdone : transComplete s.cfg.bits (readValue .nrmlIntSts s) = true := by
      rw [hb]
      exact bne_iff_ne.2 hset
    simp [hpoll hc hst, scTransPoll, hpos, hdone, goTo, hst]
  · rintro ⟨hc, hst, hpos⟩ hclear
    have hdone : transComplete s.cfg.bits (readValue .nrmlIntSts s) = false := by
      rw [hb]
      exact bne_eq_false_iff_eq.2 hclear
    simp [hpoll hc hst, scTransPoll, hpos, hdone, goTo, hst]
  · rintro ⟨hc, hst, hpos⟩ hn
    simp only [hpoll hc hst, scTransPoll, hpos, if_neg hn, goTo, hst, delay, emit]
  · rintro ⟨hc, hst, hpos⟩ hn
    simp only [hpoll hc hst, scTransPoll, hpos, if_pos hn, goTo, delay, emit]
  · rintro ⟨hc, hst, hpos⟩
    have hwrite := regWrite_nrmlIntSts (s := s) (v := 0x0002) rfl (by rw [hb]; rfl)
    have hbit : s.cfg.bits.transComplete.setWidth 32 = (0x0002 : Word) := by rw [hb]; rfl
    simp only [hpoll hc hst, scTransPoll, hpos, hbit, hwrite, goTo]

/-! ### SC.9: the error status -/

/-- How ERR_DECODE ends: alone it hands its kind over, in SEND_COMMAND it goes on at SC.10 (log 9, 31). -/
abbrev ErrDecodeEnds (i : Instr) (done : State → State) : Prop :=
  i = .errDecode ∧ done = (fun u => handOver (.decoded u.work.hw) u) ∨ (∃ c, i = .sendCommand c) ∧ done = goTo .sc10 0

/-- In SC.9, alone or in SEND_COMMAND, a running ERR_DECODE performs its next event. -/
theorem exec_errDecode_running {i : Instr} {done : State → State} {s : State} (hi : ErrDecodeEnds i done)
    (hc : s.cur = some i) (hst : s.st = .sc9) : exec i s = .next (errDecodeStep done s) := by
  obtain ⟨rfl, rfl⟩ | ⟨⟨c, rfl⟩, rfl⟩ := hi
  · rw [exec, execErrDecode, runOp_running hc, if_pos hst]
    rfl
  · rw [exec_sendCommand_running hc]
    simp only [sendCommandStep, hst]

/-- Settles O36: the first read by ERR_INT, the second by the kind decoded. -/
theorem errDecodeSteps : Obligations.ErrDecodeSteps := by
  unfold Obligations.ErrDecodeSteps
  intro s i done hi
  refine ⟨?_, ?_, ?_⟩
  · rintro ⟨hc, hst, hpos⟩ hclear
    have hnone : errInt s.cfg.bits (readValue .nrmlIntSts s) = false := bne_eq_false_iff_eq.2 hclear
    simp [exec_errDecode_running hi hc hst, errDecodeStep, hpos, hnone]
  · rintro ⟨hc, hst, hpos⟩ hset
    have hsome : errInt s.cfg.bits (readValue .nrmlIntSts s) = true := bne_iff_ne.2 hset
    simp [exec_errDecode_running hi hc hst, errDecodeStep, hpos, hsome, goTo, hst]
  · rintro ⟨hc, hst, hpos⟩
    simp [exec_errDecode_running hi hc hst, errDecodeStep, hpos]

end Sys2Proof.Machine
end

section
/-! PROOFS. The statements of the family 43_command_engine.md, second part: a whole SEND_COMMAND without data. The reads
of volatile registers answer what the environment gives; all phases but SC.4 and the end are stated for commands with
data too. -/

namespace Sys2Proof.Machine

/-! ### Reads of volatile registers -/

/-- `s` after a read of the volatile register `r` that answered `v`, the first of the environment's answers. -/
def answered (r : Reg) (v : Word) (rest : List Word) (s : State) : State :=
  { s with
    ctl := s.ctl.put r v
    env := { s.env with reads := rest, draws := s.env.draws + 1 }
    trace := .caller (.regRead r v) :: s.trace }

section
variable {r : Reg} {v : Word} {rest : List Word} {s : State} (hr : r.storage = false) (hreads : s.env.reads = v :: rest)
include hr hreads

theorem readValue_next : readValue r s = v &&& r.bits := by
  rw [readValue_volatile s hr, drawValue, hreads]

theorem readValue_next_and {m : Word} (hm : r.bits &&& m = m) : readValue r s &&& m = v &&& m := by
  rw [readValue_next hr hreads, BitVec.and_assoc, hm]

theorem regRead_next : regRead r s = answered r (v &&& r.bits) rest s := by
  have hclk : r ≠ .clkCtrl := fun h => by simp [h, Reg.storage] at hr
  have hbits : r.bits ≠ 0 := by cases r <;> decide
  have hdrawn : drawnBits r s ≠ 0 := by
    simpa [drawnBits, known_volatile _ hr, Reg.volatileBits, hclk, hr] using hbits
  rw [regRead, readValue_next hr hreads, if_neg hdrawn]
  simp [emit, afterDraw, hreads, answered]

end

/-! ### Registers that a run leaves alone -/

/-- From `c` to `d` no register outside `rs` moves. -/
def Touches (rs : List Reg) (c d : Ctl) : Prop := ∀ r, r ∉ rs → d.get r = c.get r ∧ d.known r = c.known r

theorem Touches.refl (rs : List Reg) (c : Ctl) : Touches rs c c := fun _ _ => ⟨rfl, rfl⟩

theorem Touches.trans {rs rs' : List Reg} {c d e : Ctl} (h : Touches rs c d) (h' : Touches rs' d e) :
    Touches (rs ++ rs') c e := fun r hr => by
  obtain ⟨hr, hr'⟩ : r ∉ rs ∧ r ∉ rs' := by simpa using hr
  exact ⟨(h' r hr').1.trans (h r hr).1, (h' r hr').2.trans (h r hr).2⟩

theorem Touches.put {rs : List Reg} {c d : Ctl} (h : Touches rs c d) (r : Reg) (hr : r ∈ rs) {v : Word} :
    Touches rs c (d.put r v) := by
  intro q hq
  have hne : q ≠ r := fun he => hq (he ▸ hr)
  rw [get_put_ne d v hne, known_put_ne d v hne]
  exact h q hq

/-! ### SC.1 to SC.3: the command is prepared -/

/-- SC.1 where the lines are idle. -/
theorem exec_idleLines {s : State} {c : Cmd} {p : Word} {rest : List Word} (hb : s.cfg.bits = Bits.default)
    (hat : At (.sendCommand c) .sc1 0 s) (hreads : s.env.reads = p :: rest) (hp : p &&& 0x3 = 0) :
    exec (.sendCommand c) s = .next { answered .presentState p rest s with st := .sc2, pos := 0 } := by
  obtain ⟨hidle, -⟩ := sendIdleCheck s c
  have hlines : readValue .presentState s &&& s.cfg.bits.stateCmdDat = 0 := by
    rw [hb]
    exact (readValue_next_and rfl hreads rfl).trans hp
  have hbits : p &&& Reg.bits .presentState = p := and_all32 p
  rw [hidle hat hlines, regRead_next rfl hreads, hbits]

/-- SC.2 where the tag has a length. -/
theorem exec_respMapped {s : State} {c : Cmd} {rt : BitVec 2} (hat : At (.sendCommand c) .sc2 0 s)
    (hrt : mapResp s.cfg.bits s.cfg.codes c.respType = some rt) :
    exec (.sendCommand c) s = .next { s with st := .sc3, pos := 0, work := { s.work with rt := rt } } := by
  obtain ⟨hc, hst, -⟩ := hat
  rw [exec_sendCommand_running hc]
  simp only [sendCommandStep, hst, scMap, hrt, goTo]

/-- `s`, waiting in IDLE, with `c` accepted and its first three phases performed; PRESENT_STATE answered `p`. -/
def commandPrepared (c : Cmd) (rt : BitVec 2) (p : Word) (rest : List Word) (s : State) : State :=
  { s with
    cur := some (.sendCommand c), st := .sc4, pos := 0, ret := none, home := .idle
    work := { Work.blank with rt := rt, flags := cmdFlags Bits.default rt c.dataPresent c.cmdType }
    ctl := (s.ctl.put .presentState p).put .timeoutCtrl (s.cfg.cmdTimeoutVal.setWidth 32)
    env := { s.env with reads := rest, draws := s.env.draws + 1 }
    trace := .caller (.regWrite .timeoutCtrl (s.cfg.cmdTimeoutVal.setWidth 32)) ::
      .caller (.regRead .presentState p) :: s.trace }

/-- Acceptance and SC.1 to SC.3 on idle lines. -/
theorem execs_commandPrepared {s : State} {c : Cmd} {rt : BitVec 2} {p : Word} {rest : List Word} (hstd : Standard s)
    (hready : Ready s) (hdomain : InDomain s.cfg c) (hrt : mapResp Bits.default Codes.default c.respType = some rt)
    (hreads : s.env.reads = p :: rest) (hp : p &&& 0x3 = 0) :
    execs 4 (.sendCommand c) s = .next (commandPrepared c rt p rest s) := by
  have ⟨hb, hk, _⟩ := hstd
  have haccept := (operandDomainOfSendCommand s c hready).1 hdomain
  have hidle := exec_idleLines (c := c) (s := { s with
    cur := some (.sendCommand c), st := .sc1, pos := 0, ret := none, home := .idle, work := Work.blank })
    hb ⟨rfl, rfl, rfl⟩ hreads hp
  have hmapped := exec_respMapped (c := c) (rt := rt) (s := { answered .presentState p rest s with
    cur := some (.sendCommand c), st := .sc2, pos := 0, ret := none, home := .idle, work := Work.blank })
    ⟨rfl, rfl, rfl⟩ (by rw [← hrt, ← hb, ← hk]; rfl)
  obtain ⟨-, -, htimeout⟩ := sendMapAndTimeout { answered .presentState p rest s with
    cur := some (.sendCommand c), st := .sc3, pos := 0, ret := none, home := .idle
    work := { Work.blank with rt := rt } } c hstd
  refine (execs_succ haccept).trans ((execs_succ hidle).trans ((execs_succ hmapped).trans
    ((execs_succ (htimeout ⟨rfl, rfl, rfl⟩)).trans ?_)))
  rw [commandPrepared, cmdFlags_default]
  rfl

/-! ### SC.5: the command is issued -/

/-- `s`, which stands before SC.5, once the argument and the command word are written. -/
def commandIssued (c : Cmd) (s : State) : State :=
  { s with
    st := .sc6, pos := 0
    work := { s.work with cmdTo := false, transTo := false, n := 0 }
    ctl := (s.ctl.put .arg c.argument).put .cmd ((cmdWord Bits.default c.index s.work.flags).setWidth 32)
    inFlight := some (cmdWord Bits.default c.index s.work.flags)
    trace := .caller (.regWrite .cmd ((cmdWord Bits.default c.index s.work.flags).setWidth 32)) ::
      .caller (.regWrite .arg c.argument) :: s.trace }

theorem execs_commandIssued {s : State} {c : Cmd} (hstd : Standard s) (hat : At (.sendCommand c) .sc5 0 s) :
    execs 2 (.sendCommand c) s = .next (commandIssued c s) := by
  have ⟨hc, hst, _⟩ := hat
  obtain ⟨-, -, -, -, -, -, -, harg, -⟩ := sendSetupAndIssue s c hstd
  obtain ⟨-, -, -, -, -, -, -, -, hcmd⟩ := sendSetupAndIssue
    { s with pos := 1, ctl := s.ctl.put .arg c.argument, trace := .caller (.regWrite .arg c.argument) :: s.trace } c
    hstd
  refine (execs_succ (harg hat)).trans ((execs_succ (hcmd ⟨hc, hst, rfl⟩)).trans ?_)
  rw [commandIssued, cmdWord_default]
  rfl

/-! ### SC.6 and SC.8: the polls -/

/-- `s`, which polls NRML_INT_STS, once it answered `v` and `bit` is cleared: `s` goes on at `next`. -/
def pollEnded (next : Phase) (v bit : Word) (rest : List Word) (s : State) : State :=
  { s with
    st := next, pos := 0
    ctl := s.ctl.put .nrmlIntSts (v &&& 0xFFFF &&& ~~~bit)
    env := { s.env with reads := rest, draws := s.env.draws + 1 }
    trace := .caller (.regWrite .nrmlIntSts bit) :: .caller (.regRead .nrmlIntSts (v &&& 0xFFFF)) :: s.trace }

/-- What the read of a poll leaves in NRML_INT_STS, and the write then clears. -/
theorem get_put_nrmlIntSts (c : Ctl) (v : Word) :
    (c.put .nrmlIntSts (v &&& 0xFFFF)).get .nrmlIntSts = v &&& 0xFFFF := by
  rw [get_put_same, BitVec.and_assoc]
  rfl

/-- SC.6 where the first read shows the command complete. -/
theorem execs_cmdPolled {s : State} {c : Cmd} {v : Word} {rest : List Word} (hstd : Standard s)
    (hat : At (.sendCommand c) .sc6 0 s) (hreads : s.env.reads = v :: rest) (hv : v &&& 0x0001 ≠ 0) :
    execs 2 (.sendCommand c) s = .next (pollEnded .sc7 v 0x0001 rest s) := by
  have ⟨hc, hst, _⟩ := hat
  have hdone := (sendCmdPoll s c hstd).1 hat ((readValue_next_and rfl hreads rfl).trans_ne hv)
  rw [regRead_next rfl hreads] at hdone
  obtain ⟨-, -, -, -, hclear⟩ := sendCmdPoll { answered .nrmlIntSts (v &&& 0xFFFF) rest s with pos := 2 } c hstd
  refine (execs_succ hdone).trans ((execs_succ (hclear ⟨hc, hst, rfl⟩)).trans ?_)
  simp only [answered, get_put_nrmlIntSts, put_put]
  rfl

/-- SC.8 from its first read on, where that shows the transfer complete. -/
theorem execs_transPolled {s : State} {c : Cmd} {v : Word} {rest : List Word} (hstd : Standard s)
    (hat : At (.sendCommand c) .sc8 1 s) (hreads : s.env.reads = v :: rest) (hv : v &&& 0x0002 ≠ 0) :
    execs 2 (.sendCommand c) s = .next (pollEnded .sc9 v 0x0002 rest s) := by
  have ⟨hc, hst, _⟩ := hat
  obtain ⟨-, -, hdone, -⟩ := sendTransPoll s c hstd
  have hdone := hdone hat ((readValue_next_and rfl hreads rfl).trans_ne hv)
  rw [regRead_next rfl hreads] at hdone
  obtain ⟨-, -, -, -, -, -, hclear⟩ :=
    sendTransPoll { answered .nrmlIntSts (v &&& 0xFFFF) rest s with pos := 3 } c hstd
  refine (execs_succ hdone).trans ((execs_succ (hclear ⟨hc, hst, rfl⟩)).trans ?_)
  simp only [answered, get_put_nrmlIntSts, put_put]
  rfl

/-- `s`, which stands before SC.8, once the transfer of a command that polls for it, if `polls`, is complete. -/
def transferEnded (polls : Bool) (v : Word) (rest : List Word) (s : State) : State :=
  { s with
    st := .sc9, pos := 0
    work := { s.work with n := if polls then 0 else s.work.n }
    ctl := if polls then s.ctl.put .nrmlIntSts (v &&& 0xFFFF &&& ~~~0x0002) else s.ctl
    env := { s.env with reads := rest, draws := s.env.draws + if polls then 1 else 0 }
    trace := (if polls then
        [.caller (.regWrite .nrmlIntSts 0x0002), .caller (.regRead .nrmlIntSts (v &&& 0xFFFF))]
      else []) ++ s.trace }

/-- SC.8, where a poll's first read shows the transfer complete. -/
theorem execs_transferEnded {s : State} {c : Cmd} {polls : Bool} {v : Word} {rest : List Word} (hstd : Standard s)
    (hat : At (.sendCommand c) .sc8 0 s)
    (hpolls : polls = true ↔ c.dataPresent = true ∨ c.index.toNat = s.cfg.switchCmdIndex)
    (hreads : s.env.reads = (if polls then [v] else []) ++ rest) (hv : polls = true → v &&& 0x0002 ≠ 0) :
    execs (1 + if polls then 2 else 0) (.sendCommand c) s = .next (transferEnded polls v rest s) := by
  have ⟨hc, hst, _⟩ := hat
  obtain ⟨hstart, hskip, -⟩ := sendTransPoll s c hstd
  cases polls with
  | true =>
    exact (execs_succ (hstart hat (hpolls.1 rfl))).trans (execs_transPolled hstd ⟨hc, hst, rfl⟩ hreads (hv rfl))
  | false =>
    obtain ⟨hdata, hindex⟩ := not_or.1 (hpolls.not.1 nofun)
    refine (execs_succ (hskip hat (Bool.eq_false_iff.2 hdata) hindex)).trans ?_
    obtain rfl : s.env.reads = rest := hreads
    rfl

/-! ### SC.7: the response -/

/-- How RESP_EXTRACT ends: alone it leaves, in SEND_COMMAND it goes on at SC.8 (log 9, 31). -/
abbrev RespExtractEnds (rt : BitVec 2) (i : Instr) (done : State → State) : Prop :=
  i = .respExtract rt ∧ done = leave ∨ (∃ c, i = .sendCommand c) ∧ done = goTo .sc8 0

/-- In SC.7, alone or in SEND_COMMAND, a running RESP_EXTRACT performs its next event. -/
theorem exec_respExtract_running {i : Instr} {done : State → State} {s : State} (hi : RespExtractEnds s.work.rt i done)
    (hc : s.cur = some i) (hst : s.st = .sc7) : exec i s = .next (respExtractStep s.work.rt done s) := by
  obtain ⟨rfl, rfl⟩ | ⟨⟨c, rfl⟩, rfl⟩ := hi
  · rw [exec, execRespExtract, runOp_running hc, if_pos hst]
  · rw [exec_sendCommand_running hc]
    simp only [sendCommandStep, hst]

/-- `s`, in SC.7, after a read of the response register `r` that answered `v`: the raw words are `raw`, and position `q`
is next. -/
def rawRead (r : Reg) (v : Word) (rest : List Word) (raw : Quad) (q : Nat) (s : State) : State :=
  { answered r v rest s with pos := q, work := { s.work with raw := raw } }

/-- Each read of SC.7, where it answers `v`: the short response in one, the long one in four. -/
theorem exec_responseRead {s : State} {c : Cmd} {v : Word} {rest : List Word} (hc : s.cur = some (.sendCommand c))
    (hst : s.st = .sc7) (hreads : s.env.reads = v :: rest) :
    (s.pos = 0 → s.work.rt ≠ s.cfg.bits.resp136 →
      exec (.sendCommand c) s =
        .next (goTo .sc8 0 { answered .resp0 v rest s with slots := { s.slots with w0 := v } })) ∧
    (s.pos = 0 → s.work.rt = s.cfg.bits.resp136 →
      exec (.sendCommand c) s =
        .next (rawRead .resp0 v rest { s.work.raw with w0 := v } 1 s)) ∧
    (s.pos = 1 →
      exec (.sendCommand c) s =
        .next (rawRead .resp1 v rest { s.work.raw with w1 := v } 2 s)) ∧
    (s.pos = 2 →
      exec (.sendCommand c) s =
        .next (rawRead .resp2 v rest { s.work.raw with w2 := v } 3 s)) ∧
    (s.pos = 3 →
      exec (.sendCommand c) s =
        .next (goTo .sc8 0 { rawRead .resp3 v rest { s.work.raw with w3 := v } 3 s with
          slots := reassemble { s.work.raw with w3 := v } })) := by
  have hread : ∀ r : Reg, r.storage = false → r.bits = 4294967295#32 →
      regRead r s = answered r v rest s ∧ readValue r s = v := fun r hr hbits => by
    rw [regRead_next hr hreads, readValue_next hr hreads, hbits, and_all32]
    exact ⟨rfl, rfl⟩
  obtain ⟨hread0, hval0⟩ := hread .resp0 rfl rfl
  obtain ⟨hread1, hval1⟩ := hread .resp1 rfl rfl
  obtain ⟨hread2, hval2⟩ := hread .resp2 rfl rfl
  obtain ⟨hread3, hval3⟩ := hread .resp3 rfl rfl
  rw [exec_respExtract_running (.inr ⟨⟨c, rfl⟩, rfl⟩) hc hst]
  refine ⟨fun hpos hrt => ?_, fun hpos hrt => ?_, fun hpos => ?_, fun hpos => ?_, fun hpos => ?_⟩
  · simp only [respExtractStep, hpos, hrt, if_false, hread0, hval0]
    rfl
  · simp only [respExtractStep, hpos, hrt, if_true, hread0, hval0, rawRead, answered, goTo, hst]
  · simp only [respExtractStep, hpos, hread1, hval1, rawRead, answered, goTo, hst]
  · simp only [respExtractStep, hpos, hread2, hval2, rawRead, answered, goTo, hst]
  · simp only [respExtractStep, hpos, hread3, hval3, rawRead, answered, goTo]

/-- The response registers after RESP_EXTRACT. -/
def respCtl (rt : BitVec 2) (raw : Quad) (c : Ctl) : Ctl :=
  if rt = 1 then (((c.put .resp0 raw.w0).put .resp1 raw.w1).put .resp2 raw.w2).put .resp3 raw.w3
  else c.put .resp0 raw.w0

/-- The registers the reads of SC.6 to SC.9 and the clears of the polls touch. -/
def statusRegs : List Reg := [.nrmlIntSts, .resp0, .resp1, .resp2, .resp3]

theorem Touches.respCtl {c d : Ctl} (h : Touches statusRegs c d) (rt : BitVec 2) (raw : Quad) :
    Touches statusRegs c (respCtl rt raw d) := by
  unfold Machine.respCtl
  split
  · exact (((h.put .resp0 (by decide)).put .resp1 (by decide)).put .resp2 (by decide)).put .resp3 (by decide)
  · exact h.put .resp0 (by decide)

/-- `s`, which stands before SC.7, once the response is in the slots (44_response_and_errors.md R290 to R292). -/
def responded (rt : BitVec 2) (raw : Quad) (rest : List Word) (s : State) : State :=
  { s with
    st := .sc8, pos := 0
    work := { s.work with raw := if rt = 1 then raw else s.work.raw }
    slots := respSlots rt raw s.slots
    ctl := respCtl rt raw s.ctl
    env := { s.env with reads := rest, draws := s.env.draws + (respReads rt raw).length }
    trace := respRecords rt raw ++ s.trace }

section
variable {s : State} {c : Cmd} {raw : Quad} {rest : List Word} (hat : At (.sendCommand c) .sc7 0 s)
include hat

/-- SC.7 of a response that is not of 136 bits. -/
theorem exec_shortResponse {rt : BitVec 2} (hshort : s.work.rt ≠ s.cfg.bits.resp136) (hrt : rt ≠ 1)
    (hreads : s.env.reads = raw.w0 :: rest) : exec (.sendCommand c) s = .next (responded rt raw rest s) := by
  obtain ⟨hc, hst, hpos⟩ := hat
  obtain ⟨hread0, -⟩ := exec_responseRead hc hst hreads
  rw [hread0 hpos hshort]
  simp only [responded, respSlots, respCtl, respReads, respRecords, if_neg hrt]
  rfl

/-- SC.7 of a response of 136 bits. -/
theorem execs_longResponse (hlong : s.work.rt = s.cfg.bits.resp136)
    (hreads : s.env.reads = raw.w0 :: raw.w1 :: raw.w2 :: raw.w3 :: rest) :
    execs 4 (.sendCommand c) s = .next (responded 1 raw rest s) := by
  obtain ⟨hc, hst, hpos⟩ := hat
  obtain ⟨-, hread0, -⟩ := exec_responseRead hc hst hreads
  obtain ⟨-, -, hread1, -⟩ := exec_responseRead (v := raw.w1) (rest := raw.w2 :: raw.w3 :: rest)
    (s := rawRead .resp0 raw.w0 (raw.w1 :: raw.w2 :: raw.w3 :: rest) { s.work.raw with w0 := raw.w0 } 1 s) hc hst rfl
  obtain ⟨-, -, -, hread2, -⟩ := exec_responseRead (v := raw.w2) (rest := raw.w3 :: rest)
    (s := rawRead .resp1 raw.w1 (raw.w2 :: raw.w3 :: rest) { s.work.raw with w0 := raw.w0, w1 := raw.w1 } 2
      (rawRead .resp0 raw.w0 (raw.w1 :: raw.w2 :: raw.w3 :: rest) { s.work.raw with w0 := raw.w0 } 1 s)) hc hst rfl
  obtain ⟨-, -, -, -, hread3⟩ := exec_responseRead (v := raw.w3) (rest := rest)
    (s := rawRead .resp2 raw.w2 (raw.w3 :: rest) { raw with w3 := s.work.raw.w3 } 3
      (rawRead .resp1 raw.w1 (raw.w2 :: raw.w3 :: rest) { s.work.raw with w0 := raw.w0, w1 := raw.w1 } 2
        (rawRead .resp0 raw.w0 (raw.w1 :: raw.w2 :: raw.w3 :: rest) { s.work.raw with w0 := raw.w0 } 1 s))) hc hst rfl
  specialize hread0 hpos hlong
  specialize hread1 rfl
  specialize hread2 rfl
  specialize hread3 rfl
  simp only [rawRead, answered, goTo] at hread0 hread1 hread2 hread3
  rw [execs_succ hread0, execs_succ hread1, execs_succ hread2, execs_succ hread3]
  rfl

/-- SC.7, whatever the length of the response. -/
theorem execs_responded {rt : BitVec 2} (hstd : Standard s) (hrt : s.work.rt = rt)
    (hreads : s.env.reads = respReads rt raw ++ rest) :
    execs (1 + if rt = 1 then 3 else 0) (.sendCommand c) s = .next (responded rt raw rest s) := by
  have hcode : s.cfg.bits.resp136 = 1 := by rw [hstd.1]; rfl
  by_cases hone : rt = 1
  · subst hone
    exact execs_longResponse hat (hrt.trans hcode.symm) hreads
  · rw [respReads, if_neg hone] at hreads
    rw [if_neg hone]
    exact execs_succ (exec_shortResponse hat (by rwa [hrt, hcode]) hone hreads)

end

/-! ### SC.6 to SC.8 together -/

/-- What a prompt controller answers from SC.6 to SC.8, where the command `polls` for its transfer or not, then
`rest`. -/
def commandAnswers (rt : BitVec 2) (raw : Quad) (polls : Bool) (st1 st3 : Word) (rest : List Word) : List Word :=
  st1 :: (respReads rt raw ++ ((if polls then [st3] else []) ++ rest))

/-- `s`, which stands before SC.6, once the command and its transfer, where it `polls` for one, are complete. -/
def commandAnswered (rt : BitVec 2) (raw : Quad) (polls : Bool) (st1 st3 : Word) (rest : List Word)
    (s : State) : State :=
  transferEnded polls st3 rest (responded rt raw ((if polls then [st3] else []) ++ rest)
    (pollEnded .sc7 st1 0x0001 (respReads rt raw ++ ((if polls then [st3] else []) ++ rest)) s))

theorem execs_commandAnswered {s : State} {c : Cmd} {rt : BitVec 2} {raw : Quad} {polls : Bool} {st1 st3 : Word}
    {rest : List Word} (hstd : Standard s) (hat : At (.sendCommand c) .sc6 0 s) (hrt : s.work.rt = rt)
    (hpolls : polls = true ↔ c.dataPresent = true ∨ c.index.toNat = s.cfg.switchCmdIndex)
    (hreads : s.env.reads = commandAnswers rt raw polls st1 st3 rest)
    (hst1 : st1 &&& 0x0001 ≠ 0) (hst3 : polls = true → st3 &&& 0x0002 ≠ 0) :
    execs (4 + (if rt = 1 then 3 else 0) + (if polls then 2 else 0)) (.sendCommand c) s =
      .next (commandAnswered rt raw polls st1 st3 rest s) := by
  have hc := hat.1
  have hpolled := execs_cmdPolled hstd hat hreads hst1
  have hresponded := execs_responded (raw := raw) (rest := (if polls then [st3] else []) ++ rest)
    (s := pollEnded .sc7 st1 0x0001 (respReads rt raw ++ ((if polls then [st3] else []) ++ rest)) s) ⟨hc, rfl, rfl⟩ hstd
    hrt rfl
  have hended := execs_transferEnded (rest := rest)
    (s := responded rt raw ((if polls then [st3] else []) ++ rest)
      (pollEnded .sc7 st1 0x0001 (respReads rt raw ++ ((if polls then [st3] else []) ++ rest)) s)) hstd
    ⟨hc, rfl, rfl⟩ hpolls rfl hst3
  calc execs (4 + (if rt = 1 then 3 else 0) + (if polls then 2 else 0)) (.sendCommand c) s
    _ = execs (2 + ((1 + if rt = 1 then 3 else 0) + (1 + if polls then 2 else 0))) (.sendCommand c) s := by
      congr 1
      omega
    _ = .next (commandAnswered rt raw polls st1 st3 rest s) :=
      (execs_add hpolled).trans ((execs_add hresponded).trans hended)

theorem touches_commandAnswered (rt : BitVec 2) (raw : Quad) (polls : Bool) (st1 st3 : Word) (rest : List Word)
    (s : State) : Touches statusRegs s.ctl (commandAnswered rt raw polls st1 st3 rest s).ctl := by
  have hresponded : Touches statusRegs s.ctl (respCtl rt raw (s.ctl.put .nrmlIntSts (st1 &&& 0xFFFF &&& ~~~0x0001))) :=
    ((Touches.refl _ _).put .nrmlIntSts (by decide)).respCtl rt raw
  cases polls with
  | true => exact hresponded.put .nrmlIntSts (by decide)
  | false => exact hresponded

/-! ### SC.9 to SC.11: the end of a command without data -/

/-- `s`, which stands before SC.9, once NRML_INT_STS answered `v`, with no error, and SUCCESS is delivered. -/
def commandEnded (v : Word) (rest : List Word) (s : State) : State :=
  { s with
    st := s.home, pos := 0, cur := none, work := Work.blank
    ctl := s.ctl.put .nrmlIntSts (v &&& 0xFFFF)
    env := { s.env with reads := rest, draws := s.env.draws + 1 }
    trace := .answer .success :: .caller (.regRead .nrmlIntSts (v &&& 0xFFFF)) :: s.trace }

theorem execs_commandEnded {s : State} {c : Cmd} {v : Word} {rest : List Word} (hstd : Standard s)
    (hat : At (.sendCommand c) .sc9 0 s) (hret : s.ret = none) (hdata : c.dataPresent = false)
    (hcmd : s.work.cmdTo = false) (htrans : s.work.transTo = false) (hreads : s.env.reads = v :: rest)
    (hv : v &&& 0x8000 = 0) : execs 3 (.sendCommand c) s = .next (commandEnded v rest s) := by
  have hc := hat.1
  have hclear : readValue .nrmlIntSts s &&& s.cfg.bits.errInt.setWidth 32 = 0 := by
    rw [hstd.1]
    exact (readValue_next_and rfl hreads rfl).trans hv
  have hdecode := (errDecodeSteps s _ _ (.inr ⟨⟨c, rfl⟩, rfl⟩)).1 hat hclear
  rw [regRead_next rfl hreads] at hdecode
  obtain ⟨-, hcleanup, -⟩ := sendCleanupAndEnd
    (goTo .sc10 0 { answered .nrmlIntSts (v &&& 0xFFFF) rest s with work := { s.work with hw := none } }) c .success
    (.inr (.inr (.inr ⟨rfl, hcmd, htrans, rfl⟩)))
  obtain ⟨-, -, -, -, hend⟩ := sendCleanupAndEnd
    (goTo .sc11 0 { answered .nrmlIntSts (v &&& 0xFFFF) rest s with work := { s.work with hw := none } }) c .success
    (.inr (.inr (.inr ⟨rfl, hcmd, htrans, rfl⟩)))
  exact (execs_succ hdecode).trans ((execs_succ (hcleanup ⟨hc, rfl, rfl⟩ hdata)).trans
    (execs_succ (hend ⟨hc, rfl, rfl⟩ hret hdata)))

/-! ### A whole SEND_COMMAND without data -/

/-- `s`, which stands before SC.4, where a command without data skips it. -/
def setupSkipped (s : State) : State := { s with st := .sc5, pos := 0, work := { s.work with table := none } }

/-- `s`, waiting in IDLE, once a command without data is issued. -/
def plainIssued (c : Cmd) (rt : BitVec 2) (p : Word) (rest : List Word) (s : State) : State :=
  commandIssued c (setupSkipped (commandPrepared c rt p rest s))

/-- Acceptance and SC.1 to SC.5 without data. -/
theorem execs_plainIssued {s : State} {c : Cmd} {rt : BitVec 2} {p : Word} {rest : List Word} (hstd : Standard s)
    (hready : Ready s) (hindex : c.index.toNat ≤ 63) (hdata : c.dataPresent = false)
    (hrt : mapResp Bits.default Codes.default c.respType = some rt) (hreads : s.env.reads = p :: rest)
    (hp : p &&& 0x3 = 0) : execs 7 (.sendCommand c) s = .next (plainIssued c rt p rest s) := by
  have hdomain : InDomain s.cfg c := ⟨hindex, fun h => by simp [hdata] at h⟩
  have hprepared := execs_commandPrepared hstd hready hdomain hrt hreads hp
  have hskip := (sendSetupAndIssue (commandPrepared c rt p rest s) c hstd).1 ⟨rfl, rfl, rfl⟩ hdata
  have hissued := execs_commandIssued (s := setupSkipped (commandPrepared c rt p rest s)) hstd ⟨rfl, rfl, rfl⟩
  exact (execs_add (n := 3) hprepared).trans ((execs_succ hskip).trans hissued)

/-- `s`, waiting in IDLE, once the whole of a command without data has run. -/
def plainRun (c : Cmd) (rt : BitVec 2) (raw : Quad) (switch : Bool) (p st1 st2 st3 : Word) (rest : List Word)
    (s : State) : State :=
  commandEnded st2 rest (commandAnswered rt raw switch st1 st3 (st2 :: rest)
    (plainIssued c rt p (commandAnswers rt raw switch st1 st3 (st2 :: rest)) s))

/-- The registers SC.1 to SC.5 touch without data. -/
def issueRegs : List Reg := [.presentState, .timeoutCtrl, .arg, .cmd]

theorem touches_plainIssued (c : Cmd) (rt : BitVec 2) (p : Word) (rest : List Word) (s : State) :
    Touches issueRegs s.ctl (plainIssued c rt p rest s).ctl :=
  ((((Touches.refl _ _).put .presentState (by decide)).put .timeoutCtrl (by decide)).put .arg (by decide)).put .cmd
    (by decide)

theorem get_plainIssued_arg (c : Cmd) (rt : BitVec 2) (p : Word) (rest : List Word) (s : State) :
    (plainIssued c rt p rest s).ctl.get .arg = c.argument := by
  simp only [plainIssued, commandIssued]
  rw [get_put_ne _ _ (by decide), get_put_same]
  exact and_all32 _

/-- Settles O39: acceptance and the phases one after the other. -/
theorem sendCommandRun : Obligations.SendCommandRun := by
  unfold Obligations.SendCommandRun
  intro s c rt raw p st1 st2 st3 rest switch hstd hready hindex hswitch hdata hrt hreads hp hst1 hst3 hst2
  have hpolls : switch = true ↔ c.dataPresent = true ∨ c.index.toNat = s.cfg.switchCmdIndex := by
    simp [hswitch, hdata]
  have hissued := execs_plainIssued (rest := commandAnswers rt raw switch st1 st3 (st2 :: rest)) hstd hready hindex
    hdata hrt hreads hp
  have hanswered := execs_commandAnswered (rest := st2 :: rest)
    (s := plainIssued c rt p (commandAnswers rt raw switch st1 st3 (st2 :: rest)) s) hstd
    ⟨rfl, rfl, rfl⟩ rfl hpolls rfl hst1 hst3
  have hended := execs_commandEnded (rest := rest)
    (s := commandAnswered rt raw switch st1 st3 (st2 :: rest)
      (plainIssued c rt p (commandAnswers rt raw switch st1 st3 (st2 :: rest)) s))
    hstd ⟨rfl, rfl, rfl⟩ rfl hdata rfl rfl rfl hst2
  have hstatus : Touches statusRegs _ (plainRun c rt raw switch p st1 st2 st3 rest s).ctl :=
    (touches_commandAnswered rt raw switch st1 st3 (st2 :: rest) _).put .nrmlIntSts (by decide)
  refine ⟨plainRun c rt raw switch p st1 st2 st3 rest s, ?_, ?_, ?_, ?_, rfl, rfl, rfl⟩
  · calc execs (14 + (if rt = 1 then 3 else 0) + (if switch then 2 else 0)) (.sendCommand c) s
      _ = execs (7 + (4 + (if rt = 1 then 3 else 0) + (if switch then 2 else 0) + 3)) (.sendCommand c) s := by
        congr 1
        omega
      _ = .next (plainRun c rt raw switch p st1 st2 st3 rest s) :=
        (execs_add hissued).trans ((execs_add hanswered).trans hended)
  · have hflags : cmdFlags Bits.default rt false c.cmdType = cmdFlags Bits.default rt c.dataPresent c.cmdType := by
      rw [hdata]
    rw [hflags]
    rfl
  · have hregs := (touches_plainIssued c rt p _ s).trans hstatus
    refine fun r hr => hregs r ?_
    revert r
    decide
  · exact (hstatus .arg (by decide)).1.trans (get_plainIssued_arg c rt p _ s)

end Sys2Proof.Machine
end

section
/-! PROOFS. The statements of the family 44_response_and_errors.md: RESP_EXTRACT one read at a time, and the priority of
the error decoder, whose chain of tests is the search of a list of rows. -/

namespace Sys2Proof.Machine

/-! ### The priority of the error decoder -/

/-- The bits the error decoder tests and the kinds they mean, first tested first (44_response_and_errors.md R295). -/
def errRows (b : Bits) : List (Half × Status) :=
  [(b.errCmdTimeout, .hwCmdTimeout), (b.errCmdCrc, .hwCmdCrc), (b.errCmdEndBit, .hwCmdEndBit),
    (b.errCmdIndex, .hwCmdIndex), (b.errDataTimeout, .hwDataTimeout), (b.errDataCrc, .hwDataCrc),
    (b.errDataEndBit, .hwDataEndBit), (b.errCurrent, .hwCurrentLimit), (b.errAutoCmd12, .hwAutoCmd12),
    (b.errAdma, .hwAdma)]

/-- `e` has a bit of the row's mask. -/
def rowSet (e : Half) (row : Half × Status) : Bool := e &&& row.1 != 0

theorem find?_rowSet_cons (e m : Half) (k : Status) (rows : List (Half × Status)) :
    (((m, k) :: rows).find? (rowSet e)).map Prod.snd =
      if e &&& m ≠ 0 then some k else (rows.find? (rowSet e)).map Prod.snd := by
  by_cases h : e &&& m = 0
  · rw [List.find?_cons_of_neg (by simp [rowSet, h]), if_neg (not_not_intro h)]
  · rw [List.find?_cons_of_pos (by simpa [rowSet] using h), if_pos h, Option.map_some]

/-- The decoder's chain of tests is the search for the first row that `v` sets. -/
theorem errKind_eq_find? (b : Bits) (v : Word) :
    errKind b v = ((errRows b).find? (rowSet (v.setWidth 16))).map Prod.snd := by
  simp only [errKind, errRows, find?_rowSet_cons, List.find?_nil, Option.map_none]

theorem length_errRows (b : Bits) : (errRows b).length = 10 := rfl

/-- Row `j` tests bit `j` (10_state.md R48). -/
theorem errRows_mask : ∀ (j : Nat) (h : j < (errRows Bits.default).length),
    (errRows Bits.default)[j].1 = BitVec.twoPow 16 j := by
  decide

theorem rowSet_errRows (e : Word) {j : Nat} (h : j < (errRows Bits.default).length) :
    rowSet (e.setWidth 16) (errRows Bits.default)[j] = e.getLsbD j := by
  have hj : j < 16 := h.trans (by decide)
  rw [rowSet, errRows_mask j h, and_twoPow_bne_zero _ hj]
  simp [hj]

theorem find?_errRows_lowest {e : Word} {k : Nat} (hk : k < (errRows Bits.default).length)
    (hset : e.getLsbD k = true) (hbelow : ∀ j, j < k → e.getLsbD j = false) :
    (errRows Bits.default).find? (rowSet (e.setWidth 16)) = some (errRows Bits.default)[k] := by
  refine List.find?_eq_some_iff_getElem.2 ⟨(rowSet_errRows e hk).trans hset, k, hk, rfl, fun j hj => ?_⟩
  rw [rowSet_errRows e (hj.trans hk), hbelow j hj]
  rfl

theorem find?_errRows_none {e : Word} (hclear : ∀ j, j < (errRows Bits.default).length → e.getLsbD j = false) :
    (errRows Bits.default).find? (rowSet (e.setWidth 16)) = none := by
  refine List.find?_eq_none.2 fun row hrow => ?_
  obtain ⟨j, hj, rfl⟩ := List.getElem_of_mem hrow
  simp [rowSet_errRows e hj, hclear j hj]

/-- Settles O37: row `j` of the decoder's search tests bit `j`, so the first row found is that of the lowest set bit. -/
theorem errPriorityIsLowestBit : Obligations.ErrPriorityIsLowestBit := by
  unfold Obligations.ErrPriorityIsLowestBit
  intro e k
  rw [← length_errRows Bits.default]
  refine ⟨fun hk hset hbelow => ?_, fun hclear => ?_⟩
  · calc errKind Bits.default e
      _ = some (errRows Bits.default)[k].2 := by
        rw [errKind_eq_find?, find?_errRows_lowest hk hset hbelow, Option.map_some]
      _ = ((errRows Bits.default).map Prod.snd)[k]? := by
        rw [List.getElem?_map, List.getElem?_eq_getElem hk, Option.map_some]
  · rw [errKind_eq_find?, find?_errRows_none hclear, Option.map_none]

/-! ### RESP_EXTRACT, one read at a time -/

/-- Settles O34: the first read by the length of the response, the others by their position. -/
theorem respExtractSteps : Obligations.RespExtractSteps := by
  unfold Obligations.RespExtractSteps
  intro s i done hi
  have hread : s.cur = some i → s.st = .sc7 → exec i s = .next (respExtractStep s.work.rt done s) :=
    exec_respExtract_running hi
  refine ⟨?_, ?_, ?_, ?_, ?_⟩
  · rintro ⟨hc, hst, hpos⟩ hshort
    simp only [hread hc hst, respExtractStep, hpos, if_neg hshort, regRead_fields]
  · rintro ⟨hc, hst, hpos⟩ hlong
    simp only [hread hc hst, respExtractStep, hpos, if_pos hlong, regRead_fields, goTo, hst]
  · rintro ⟨hc, hst, hpos⟩
    simp only [hread hc hst, respExtractStep, hpos, regRead_fields, goTo, hst]
  · rintro ⟨hc, hst, hpos⟩
    simp only [hread hc hst, respExtractStep, hpos, regRead_fields, goTo, hst]
  · rintro ⟨hc, hst, hpos⟩
    simp only [hread hc hst, respExtractStep, hpos, regRead_fields, reassemble]

end Sys2Proof.Machine
end

section
/-! PROOFS. The statements of the family 45_init_and_config_ops.md, first part: INIT, the two mode changes and
MODE_ENABLE one event at a time. -/

namespace Sys2Proof.Machine

/-! ### Writes of values as wide as their register -/

theorem regWrite_byte {r : Reg} (hr : r.storage = true) (hw : r.width = 8) (v : Byte) (s : State) :
    regWrite r (v.setWidth 32) s =
      { s with
        ctl := s.ctl.put r (v.setWidth 32)
        trace := .caller (.regWrite r (v.setWidth 32)) :: s.trace } := by
  have hclk : r ≠ .clkCtrl := fun h => by simp [h, Reg.width] at hw
  have hcmd : r ≠ .cmd := fun h => by simp [h, Reg.width] at hw
  have hv : v.setWidth 32 &&& r.bits = v.setWidth 32 := by
    rw [Reg.bits, hw]
    exact setWidth_byte v
  rw [regWrite_storage hr hclk hcmd, hv]

theorem regWrite_half {r : Reg} (hr : r.storage = true) (hw : r.width = 16) (hclk : r ≠ .clkCtrl) (hcmd : r ≠ .cmd)
    (v : Half) (s : State) :
    regWrite r (v.setWidth 32) s =
      { s with
        ctl := s.ctl.put r (v.setWidth 32)
        trace := .caller (.regWrite r (v.setWidth 32)) :: s.trace } := by
  have hv : v.setWidth 32 &&& r.bits = v.setWidth 32 := by
    rw [Reg.bits, hw]
    exact setWidth_half v
  rw [regWrite_storage hr hclk hcmd, hv]

/-! ### INIT -/

theorem exec_init_running {s : State} (hc : s.cur = some .init) : exec .init s = initStep s := runOp_running hc

section
variable {s : State} (hc : s.cur = some .init)
include hc

theorem exec_init_in1 (hst : s.st = .in1) : exec .init s = .next (inReset s) := by
  simp only [exec_init_running hc, initStep, hst]

theorem exec_init_in2 (hst : s.st = .in2) : exec .init s = .next (inCaps s) := by
  simp only [exec_init_running hc, initStep, hst]

theorem exec_init_in3 (hst : s.st = .in3) : exec .init s = .next (goTo .in4 0 (eventArm s)) := by
  simp only [exec_init_running hc, initStep, hst]

theorem exec_init_in4 (hst : s.st = .in4) : exec .init s = .next (goTo .in5 0 (irqUnmask s)) := by
  simp only [exec_init_running hc, initStep, hst]

theorem exec_init_in5 (hst : s.st = .in5) :
    exec .init s = .next (goTo .in6 0 (pwrWrite .mask s.cfg.pwrIntEnVal s)) := by
  simp only [exec_init_running hc, initStep, hst]

/-- IN.6 by its position: the voltage selection alone, then with BUS_PWR_EN. -/
theorem exec_init_in6 {v : Byte} (hst : s.st = .in6) (hv : s.h.voltage = some v) :
    exec .init s = .next
      (if s.pos = 0 then goTo .in6 1 (regWrite .pwrCtrl ((v <<< s.cfg.bits.voltSelPos).setWidth 32) s)
       else
        goTo .in7 0 (regWrite .pwrCtrl (((v <<< s.cfg.bits.voltSelPos) ||| s.cfg.bits.busPwrEn).setWidth 32) s)) := by
  simp only [exec_init_running hc, initStep, hst, inPower, hv]

theorem exec_init_in8 (hst : s.st = .in8) :
    exec .init s = .next (call .bw1 .in9 0 { s with work := { s.work with width := s.cfg.codes.w1 } }) := by
  simp only [exec_init_running hc, initStep, hst]

theorem exec_init_in9 (hst : s.st = .in9) :
    exec .init s = .next (goTo .in10 0 (regWrite .hostCtrl1 (s.cfg.bits.admaSel.setWidth 32) s)) := by
  simp only [exec_init_running hc, initStep, hst]

theorem exec_init_in10 (hst : s.st = .in10) : exec .init s = .next (inEnables s) := by
  simp only [exec_init_running hc, initStep, hst]

theorem exec_init_in11 (hst : s.st = .in11) : exec .init s = .next (finish .success s) := by
  simp only [exec_init_running hc, initStep, hst]

end

/-- Settles O41: each phase by its position, with the write it performs as an update of the registers. -/
theorem initSteps : Obligations.InitSteps := by
  unfold Obligations.InitSteps
  intro s
  refine ⟨?_, ?_, ?_, ?_, ?_, ?_, ?_, ?_, ?_, ?_, ?_, ?_, ?_, ?_, ?_⟩
  · exact fun ⟨hc, hst, _⟩ => exec_init_in1 hc hst
  · rintro ⟨hc, hst, hpos⟩
    rw [exec_init_in2 hc hst, inCaps, if_pos hpos, goTo_regRead hst]
  · rintro ⟨hc, hst, hpos⟩
    rw [exec_init_in2 hc hst, inCaps, if_neg (by simp [hpos]), goTo]
  · exact fun ⟨hc, hst, _⟩ => exec_init_in3 hc hst
  · exact fun ⟨hc, hst, _⟩ => exec_init_in4 hc hst
  · exact fun ⟨hc, hst, _⟩ => exec_init_in5 hc hst
  · rintro v ⟨hc, hst, hpos⟩ hv
    rw [exec_init_in6 hc hst hv, if_pos hpos, regWrite_byte rfl rfl, goTo, hst]
  · rintro v ⟨hc, hst, hpos⟩ hv
    rw [exec_init_in6 hc hst hv, if_neg (by simp [hpos]), regWrite_byte rfl rfl, goTo]
  · exact fun ⟨hc, hst, _⟩ => exec_init_in8 hc hst
  · rintro ⟨hc, hst, -⟩
    rw [exec_init_in9 hc hst, regWrite_byte rfl rfl, goTo]
  · rintro ⟨hc, hst, hpos⟩
    rw [exec_init_in10 hc hst]
    simp only [inEnables, hpos, goTo, hst, regWrite_half (r := .nrmlIntStsEn) rfl rfl nofun nofun]
  · rintro ⟨hc, hst, hpos⟩
    rw [exec_init_in10 hc hst]
    simp only [inEnables, hpos, goTo, hst, regWrite_half (r := .errIntStsEn) rfl rfl nofun nofun]
  · rintro ⟨hc, hst, hpos⟩
    rw [exec_init_in10 hc hst]
    simp only [inEnables, hpos, goTo, hst, regWrite_half (r := .nrmlIntSigEn) rfl rfl nofun nofun]
  · rintro ⟨hc, hst, hpos⟩
    rw [exec_init_in10 hc hst]
    simp only [inEnables, hpos, goTo, regWrite_half (r := .errIntSigEn) rfl rfl nofun nofun]
  · rintro ⟨hc, hst, -⟩ hret
    rw [exec_init_in11 hc hst, finish_port _ hret]

/-! ### SET_SDR_MODE and SET_DDR_MODE -/

/-- `i` is a mode change with its three phases and its bit of HOST_CTRL2 (R325, R326). -/
abbrev ModeChange (b : Bits) (i : Instr) (p1 p2 p3 : Phase) (bit : Half) : Prop :=
  i = .setSdrMode ∧ p1 = .sm1 ∧ p2 = .sm2 ∧ p3 = .sm3 ∧ bit = b.sdr50ModeEn ∨
    i = .setDdrMode ∧ p1 = .dm1 ∧ p2 = .dm2 ∧ p3 = .dm3 ∧ bit = b.ddrModeEn

/-- In its own three phases a running mode change performs its next event. -/
theorem exec_mode_running {s : State} {i : Instr} {p1 p2 p3 : Phase} {bit : Half}
    (h : ModeChange s.cfg.bits i p1 p2 p3 bit) (hc : s.cur = some i) :
    (s.st = p1 → exec i s = .next (modeClockOff p1 p2 s)) ∧
    (s.st = p2 → exec i s = .next (modeSelect p2 p3 bit s)) ∧
    (s.st = p3 → exec i s = modeClockOn p3 s) := by
  obtain ⟨rfl, rfl, rfl, rfl, rfl⟩ | ⟨rfl, rfl, rfl, rfl, rfl⟩ := h
  · have hrun : exec .setSdrMode s = setSdrModeStep s := by rw [exec, execSetSdrMode, runOp_running hc]
    refine ⟨fun hst => ?_, fun hst => ?_, fun hst => ?_⟩ <;> simp only [hrun, setSdrModeStep, hst]
  · have hrun : exec .setDdrMode s = setDdrModeStep s := by rw [exec, execSetDdrMode, runOp_running hc]
    refine ⟨fun hst => ?_, fun hst => ?_, fun hst => ?_⟩ <;> simp only [hrun, setDdrModeStep, hst]

/-- Settles O45: the three phases of either mode change, by their positions. -/
theorem modeChangeSteps : Obligations.ModeChangeSteps := by
  unfold Obligations.ModeChangeSteps
  intro s i p1 p2 p3 bit hmode
  have hrun := exec_mode_running hmode
  refine ⟨?_, ?_, ?_, ?_, ?_, ?_⟩
  · rintro ⟨hc, hst, hpos⟩
    obtain ⟨hoff, -, -⟩ := hrun hc
    simp only [hoff hst, modeClockOff, hpos, if_true, goTo_regRead hst]
  · rintro ⟨hc, hst, hpos⟩
    obtain ⟨hoff, -, -⟩ := hrun hc
    simp only [hoff hst, modeClockOff, hpos, Nat.one_ne_zero, if_false]
  · rintro ⟨hc, hst, hpos⟩
    obtain ⟨-, hselect, -⟩ := hrun hc
    simp only [hselect hst, modeSelect, hpos, if_true, goTo_regRead hst]
  · rintro ⟨hc, hst, hpos⟩
    obtain ⟨-, hselect, -⟩ := hrun hc
    simp only [hselect hst, modeSelect, hpos, Nat.one_ne_zero, if_false]
  · rintro f ⟨hc, hst, hpos⟩ hf
    obtain ⟨-, -, hon⟩ := hrun hc
    simp only [hon hst, modeClockOn, hpos, if_true, hf, call]
  · rintro ⟨hc, hst, hpos⟩ hret
    obtain ⟨-, -, hon⟩ := hrun hc
    simp only [hon hst, modeClockOn, hpos, Nat.one_ne_zero, if_false, finish_port _ hret]

/-! ### MODE_ENABLE -/

/-- A main block that was taken away is the first ground of a refusal (U16; log 36). -/
theorem admission_blockGone {s : State} (h : s.blockGone = true) (i : Instr) : admission i s = some .mainBlockGone := by
  simp [admission, h]

/-- Settles O46: the one write and the return, and the refusal that follows a block taken away. -/
theorem modeEnableSteps : Obligations.ModeEnableSteps := by
  unfold Obligations.ModeEnableSteps
  refine ⟨?_, ?_⟩
  · rintro s g ⟨hc, hst, -⟩ hret
    have hword : (if g ≠ 0 then s.cfg.bits.hcModeEn else 0) = if g = 0 then 0 else s.cfg.bits.hcModeEn := ite_not ..
    rw [exec_modeEnable, execModeEnable, runOp_running hc, if_pos hst, meWrite, hword, finish_port _ (by exact hret)]
    rfl
  · intro s i hcur ha hgone hi
    obtain ⟨start, next, hexec⟩ := exec_exposed hi
    rw [hexec, runOp_refused hcur ha (admission_blockGone hgone i)]

end Sys2Proof.Machine
end

section
/-! PROOFS. The statements of the family 45_init_and_config_ops.md, second part: a whole INIT. SOFT_RESET is stated for
every operation that runs it; the phases of INIT are taken in the groups that end where the environment answers. -/

namespace Sys2Proof.Machine

/-! ### A whole SOFT_RESET -/

/-- `s`, in the spin of SOFT_RESET, after the reads that answered `busy` and the one that answered `z`. -/
def resetSpun (busy : List Word) (z : Word) (rest : List Word) (s : State) : State :=
  answered .swReset (z &&& Reg.bits .swReset) rest
    { s with
      work := { s.work with spin := s.work.spin + busy.length }
      env := { s.env with draws := s.env.draws + busy.length }
      trace := busy.reverse.map (fun x => .caller (.regRead .swReset (x &&& Reg.bits .swReset))) ++ s.trace }

/-- `s`, in the spin of SOFT_RESET, after a read that answered `x`, with a bit of the mask. -/
def resetBusy (x : Word) (rest : List Word) (s : State) : State :=
  { answered .swReset (x &&& Reg.bits .swReset) rest s with work := { s.work with spin := s.work.spin + 1 } }

theorem resetSpun_resetBusy (x z : Word) (busy rest rest' : List Word) (s : State) :
    resetSpun busy z rest (resetBusy x rest' s) = resetSpun (x :: busy) z rest s := by
  have hcount : ∀ n : Nat, n + 1 + busy.length = n + (busy.length + 1) := fun n => by omega
  simp [resetSpun, resetBusy, answered, hcount]

theorem maySpin_of_noBound {s : State} (h : s.cfg.spinBound = none) : MaySpin s := fun b hb => by simp [h] at hb

/-- A mask of SOFT_RESET lies in the bits of SW_RESET. -/
theorem swReset_bits_mask (m : Byte) : Reg.bits .swReset &&& m.setWidth 32 = m.setWidth 32 :=
  (BitVec.and_comm _ _).trans (setWidth_byte m)

/-- SR.2, the whole spin: the reads that show a bit of the mask, and the one that shows none. -/
theorem execs_resetSpun {i : Instr} {s : State} {busy rest : List Word} {z : Word} (hi : runsReset i = true)
    (hc : s.cur = some i) (hst : s.st = .sr2) (hspin : s.cfg.spinBound = none)
    (hreads : s.env.reads = busy ++ z :: rest)
    (hbusy : ∀ x ∈ busy, x &&& s.work.mask.setWidth 32 ≠ 0) (hz : z &&& s.work.mask.setWidth 32 = 0) :
    execs (busy.length + 1) i s = .next (leave (resetSpun busy z rest s)) := by
  induction busy generalizing s with
  | nil =>
    obtain ⟨-, hdone, -, -⟩ := softResetSteps s i hi hc
    have hread := hdone hst (maySpin_of_noBound hspin) ((readValue_next_and rfl hreads (swReset_bits_mask _)).trans hz)
    rw [regRead_next rfl hreads] at hread
    exact execs_succ hread
  | cons x busy ih =>
    obtain ⟨hx, hrest⟩ := List.forall_mem_cons.1 hbusy
    obtain ⟨-, -, hstay, -⟩ := softResetSteps s i hi hc
    have hread := hstay hst (maySpin_of_noBound hspin) (by rwa [readValue_next_and rfl hreads (swReset_bits_mask _)])
    rw [regRead_next rfl hreads] at hread
    have hspun := ih (s := resetBusy x (busy ++ z :: rest) s) hc hst hspin rfl hrest hz
    rw [List.length_cons, ← resetSpun_resetBusy x z busy rest (busy ++ z :: rest)]
    exact (execs_succ hread).trans hspun

/-- `s`, at SR.1, once the mask is written. -/
def resetWritten (s : State) : State :=
  goTo .sr2 0 (regWrite .swReset (s.work.mask.setWidth 32) { s with work := { s.work with spin := 0 } })

/-- SR.1 and SR.2, alone or nested, whatever number of reads the reset takes. -/
theorem execs_softReset {i : Instr} {s : State} {busy rest : List Word} {z : Word} (hi : runsReset i = true)
    (hc : s.cur = some i) (hst : s.st = .sr1) (hspin : s.cfg.spinBound = none)
    (hreads : s.env.reads = busy ++ z :: rest)
    (hbusy : ∀ x ∈ busy, x &&& s.work.mask.setWidth 32 ≠ 0) (hz : z &&& s.work.mask.setWidth 32 = 0) :
    execs (busy.length + 2) i s = .next (leave (resetSpun busy z rest (resetWritten s))) := by
  have hwrite := (softResetSteps s i hi hc).1 hst
  exact (execs_succ hwrite).trans (execs_resetSpun (s := resetWritten s) hi hc rfl hspin hreads hbusy hz)

/-! ### Acceptance and IN.1 -/

/-- `s` with INIT accepted (10_state.md R25, R31). -/
def initAccepted (s : State) : State :=
  { s with cur := some .init, st := .in1, pos := 0, ret := none, home := .idle, work := Work.blank }

theorem exec_initAccepted {s : State} (hc : s.cur = none) (hst : s.st = .uninit ∨ s.st = .idle)
    (hb : s.blockGone = false) : exec .init s = .next (initAccepted s) := by
  obtain hst | hst := hst
  · exact (uninitAcceptance s hc hst hb).1
  · exact (idleAcceptsOperations s ⟨hc, hst, hb⟩).1

/-- `s`, waiting for INIT, once IN.1 has called SOFT_RESET with the bit for the whole controller (R311). -/
def initCalled (s : State) : State :=
  { initAccepted s with st := .sr1, ret := some (.in2, 0), work := { Work.blank with mask := 0x01 } }

/-- `s`, waiting for INIT, once the controller is reset, before IN.2. -/
def initReset (busy : List Word) (z : Word) (rest : List Word) (s : State) : State :=
  { s with
    cur := some .init, st := .in2, pos := 0, ret := none, home := .idle
    work := (resetSpun busy z rest (resetWritten (initCalled s))).work
    ctl := (resetSpun busy z rest (resetWritten (initCalled s))).ctl
    env := { s.env with reads := rest, draws := s.env.draws + busy.length + 1 }
    trace := (resetSpun busy z rest (resetWritten (initCalled s))).trace }

theorem execs_initReset {s : State} {busy rest : List Word} {z : Word} (hstd : Standard s) (hc : s.cur = none)
    (hst : s.st = .uninit ∨ s.st = .idle) (hb : s.blockGone = false) (hspin : s.cfg.spinBound = none)
    (hreads : s.env.reads = busy ++ z :: rest) (hbusy : ∀ x ∈ busy, x &&& 0x01 ≠ 0) (hz : z &&& 0x01 = 0) :
    execs (busy.length + 4) .init s = .next (initReset busy z rest s) := by
  have hbits := hstd.1
  have hcall : exec .init (initAccepted s) = .next (initCalled s) := by
    rw [exec_init_in1 rfl rfl, inReset, show (initAccepted s).cfg.bits = Bits.default from hbits]
    rfl
  have hreset := execs_softReset (i := .init) (s := initCalled s) rfl rfl rfl hspin hreads hbusy hz
  exact (execs_succ (exec_initAccepted hc hst hb)).trans ((execs_succ hcall).trans hreset)

/-- The reset of the whole controller leaves HOST_CTRL1 unspecified (10_state.md R52; log 26). -/
theorem known_initReset {s : State} (hb : s.cfg.bits = Bits.default) (busy : List Word) (z : Word) (rest : List Word) :
    (initReset busy z rest s).ctl.known .hostCtrl1 = false := by
  have hwritten : (resetWritten (initCalled s)).ctl.known .hostCtrl1 = false := by
    have hall : (0x01 : Byte).setWidth 32 &&& s.cfg.bits.resetAll.setWidth 32 ≠ 0 := by
      rw [hb]
      decide
    have hctl : (resetWritten (initCalled s)).ctl = _ := written_resetAll s.cfg.bits s.ctl hall
    rw [hctl, known_forget]
    rfl
  exact (known_put_ne _ _ (by decide)).trans hwritten

/-! ### IN.2: the capability words -/

/-- `s`, at IN.2, once the capability words answered `c1` and `c2`. -/
def capsRead (c1 c2 : Word) (rest : List Word) (s : State) : State :=
  { answered .caps2 c2 rest (answered .caps1 c1 (c2 :: rest) s) with
    st := .in3, pos := 0, work := { s.work with tmp := c1 }, h := capRecord Bits.default c1 c2 }

theorem execs_capsRead {s : State} {c1 c2 : Word} {rest : List Word} (hstd : Standard s) (hat : At .init .in2 0 s)
    (hreads : s.env.reads = c1 :: c2 :: rest) : execs 2 .init s = .next (capsRead c1 c2 rest s) := by
  have hb := hstd.1
  have hcaps1 : c1 &&& Reg.bits .caps1 = c1 := and_all32 c1
  have hcaps2 : c2 &&& Reg.bits .caps2 = c2 := and_all32 c2
  obtain ⟨hc, hst, hpos⟩ := hat
  have hfirst := exec_init_in2 hc hst
  rw [inCaps, if_pos hpos, regRead_next rfl hreads, readValue_next rfl hreads, hcaps1] at hfirst
  have hsecond := exec_init_in2
    (s := goTo .in2 1 { answered .caps1 c1 (c2 :: rest) s with work := { s.work with tmp := c1 } }) hc rfl
  rw [inCaps, if_neg nofun, regRead_next rfl rfl, readValue_next rfl rfl, hcaps2] at hsecond
  refine (execs_succ hfirst).trans ((execs_succ hsecond).trans ?_)
  rw [capsRead, ← hb]
  rfl

/-! ### IN.3 to IN.6: the power request -/

/-- `s`, at IN.3, once the event is armed, the line unmasked and enabled, and the voltage `v` requested, before IN.7. -/
def powerRequested (v : Byte) (s : State) : State :=
  { s with
    st := .in7, pos := 0, ev := false
    irq := { s.irq with masked := false }
    pwr := { s.pwr with maskEn := ⟨s.cfg.pwrIntEnVal, true⟩ }
    ctl := s.ctl.put .pwrCtrl (((v <<< 1) ||| 0x01).setWidth 32)
    trace := .caller (.regWrite .pwrCtrl (((v <<< 1) ||| 0x01).setWidth 32)) ::
      .caller (.regWrite .pwrCtrl ((v <<< 1).setWidth 32)) :: .caller (.pwrWrite .mask s.cfg.pwrIntEnVal) ::
      .caller (.irqUnmask s.cfg.pwrIrqLine) :: .caller .eventArm :: s.trace }

theorem execs_powerRequested {s : State} {v : Byte} (hstd : Standard s) (hat : At .init .in3 0 s)
    (hv : s.h.voltage = some v) : execs 5 .init s = .next (powerRequested v s) := by
  have hb := hstd.1
  obtain ⟨hc, hst, -⟩ := hat
  simp only [execs, exec_init_in3, exec_init_in4, exec_init_in5, exec_init_in6 (v := v), hc, hst, hv, if_true,
    Nat.one_ne_zero, if_false, goTo, eventArm, irqUnmask, pwrWrite, emit, regWrite_byte (r := .pwrCtrl) rfl rfl, hb,
    put_put, powerRequested]
  rfl

/-! ### IN.7 -/

/-- `s` once the handler has run on PWRCTL_MASK answering `m` (40_power_handshake.md R170). -/
def interrupted (m : Word) (rest : List Word) (s : State) : State :=
  { s with
    ev := true
    pwr := { s.pwr with mask := m, ctl := ⟨ackWord Bits.default m, true⟩ }
    irq := { s.irq with pending := false, m := 0, ack := 0 }
    env := { s.env with reads := rest, draws := s.env.draws + 1 }
    trace := .irq .eventSignal :: .irq (.pwrWrite .ctl (ackWord Bits.default m)) :: .irq (.pwrRead .mask m) :: s.trace }

theorem exec_interrupted {s : State} {m : Word} {rest : List Word} (hb : s.cfg.bits = Bits.default)
    (hreads : s.env.reads = m :: rest) : exec .pwrIrq s = .next (interrupted m rest s) := by
  have hm : drawValue pwrMaskNumber s = m := by rw [drawValue, hreads]
  simp only [exec, execPwrIrq, takePwrIrq, hm, hb, interrupted, afterDraw, hreads, List.tail_cons, emitIrq]

/-! ### IN.8: SET_BUS_WIDTH -/

theorem Reg.bits_ne_zero (r : Reg) : r.bits ≠ 0 := by cases r <;> decide

/-- A read of an unspecified register answers what the environment gives (10_state.md R52). -/
theorem regRead_unknown {r : Reg} {s : State} {v : Word} {rest : List Word} (hk : s.ctl.known r = false)
    (hreads : s.env.reads = v :: rest) : regRead r s = answered r (v &&& r.bits) rest s := by
  have hdrawn : drawnBits r s ≠ 0 := by simpa [drawnBits, hk] using r.bits_ne_zero
  have hread : readValue r s = v &&& r.bits := by rw [readValue_unknown hk, drawValue, hreads]
  rw [regRead, hread, if_neg hdrawn]
  simp [emit, afterDraw, hreads, answered]

/-- The first event of BW.2, where HOST_CTRL1 is unspecified. -/
theorem exec_widthRead {i : Instr} {s : State} {v : Word} {rest : List Word} (hstd : Standard s)
    (hi : runsWidth i = true) (hc : s.cur = some i) (hst : s.st = .bw2) (hpos : s.pos = 0)
    (hk : s.ctl.known .hostCtrl1 = false) (hreads : s.env.reads = v :: rest) :
    exec i s = .next { answered .hostCtrl1 (v &&& Reg.bits .hostCtrl1) rest s with
      pos := 1, work := { s.work with tmp := v &&& Reg.bits .hostCtrl1 } } := by
  obtain ⟨-, -, hread, -⟩ := setBusWidthSteps s i hstd hi hc
  rw [hread hst hpos, regRead_unknown hk hreads, readValue_unknown hk, drawValue, hreads]

/-- The second event of BW.2, on a value read at the width of HOST_CTRL1. -/
theorem exec_widthWrite {i : Instr} {s : State} (hstd : Standard s) (hi : runsWidth i = true) (hc : s.cur = some i)
    (hst : s.st = .bw2) (hpos : s.pos = 1) (htmp : s.work.tmp &&& Reg.bits .hostCtrl1 = s.work.tmp) :
    exec i s = .next (finish .success { s with
      ctl := s.ctl.put .hostCtrl1 (s.work.tmp ||| s.work.code.setWidth 32)
      trace := .caller (.regWrite .hostCtrl1 (s.work.tmp ||| s.work.code.setWidth 32)) :: s.trace }) := by
  obtain ⟨-, -, -, hwrite⟩ := setBusWidthSteps s i hstd hi hc
  have hcode : s.work.code.setWidth 32 &&& Reg.bits .hostCtrl1 = s.work.code.setWidth 32 := setWidth_byte _
  rw [hwrite hst hpos, regWrite_storage (r := .hostCtrl1) rfl nofun nofun, BitVec.and_or_distrib_right, htmp, hcode]

/-- `s`, at BW.1, once HOST_CTRL1 answered `v` and is written back with `code`, before BW.2 returns. -/
def widthWritten (code : Byte) (v : Word) (rest : List Word) (s : State) : State :=
  { s with
    st := .bw2, pos := 1
    work := { s.work with code := code, tmp := v }
    ctl := s.ctl.put .hostCtrl1 (v ||| code.setWidth 32)
    env := { s.env with reads := rest, draws := s.env.draws + 1 }
    trace := .caller (.regWrite .hostCtrl1 (v ||| code.setWidth 32)) :: .caller (.regRead .hostCtrl1 v) :: s.trace }

/-- BW.1 and BW.2, alone or nested, where HOST_CTRL1 is unspecified. -/
theorem execs_widthWritten {i : Instr} {s : State} {code : Byte} {v : Word} {rest : List Word} (hstd : Standard s)
    (hi : runsWidth i = true) (hc : s.cur = some i) (hst : s.st = .bw1)
    (htag : s.work.width = 0 ∧ code = 0x00 ∨ s.work.width = 1 ∧ code = 0x02 ∨ s.work.width = 2 ∧ code = 0x20)
    (hk : s.ctl.known .hostCtrl1 = false) (hreads : s.env.reads = v :: rest) :
    execs 3 i s = .next (finish .success (widthWritten code (v &&& Reg.bits .hostCtrl1) rest s)) := by
  obtain ⟨hmap, -, -, -⟩ := setBusWidthSteps s i hstd hi hc
  have hread := exec_widthRead (s := { s with st := .bw2, pos := 0, work := { s.work with code := code } }) hstd hi hc
    rfl rfl hk hreads
  have hwrite := exec_widthWrite (s := { answered .hostCtrl1 (v &&& Reg.bits .hostCtrl1) rest s with
    st := .bw2, pos := 1, work := { s.work with code := code, tmp := v &&& Reg.bits .hostCtrl1 } }) hstd hi hc rfl rfl
    (by rw [BitVec.and_assoc, BitVec.and_self])
  refine (execs_succ (hmap code hst htag)).trans ((execs_succ hread).trans ((execs_succ hwrite).trans ?_))
  simp only [execs, widthWritten, answered, put_put]

/-- `s`, at IN.7 with the event signalled, once it is consumed and SET_BUS_WIDTH has run for one line, HOST_CTRL1
answering `v` (R316). -/
def widthSet (v : Word) (rest : List Word) (s : State) : State :=
  { s with
    st := .in9, pos := 0, ret := none, ev := false
    work := { s.work with width := s.cfg.codes.w1, code := 0, tmp := v &&& Reg.bits .hostCtrl1, inner := some .success }
    ctl := s.ctl.put .hostCtrl1 (v &&& Reg.bits .hostCtrl1)
    env := { s.env with reads := rest, draws := s.env.draws + 1 }
    trace := .caller (.regWrite .hostCtrl1 (v &&& Reg.bits .hostCtrl1)) ::
      .caller (.regRead .hostCtrl1 (v &&& Reg.bits .hostCtrl1)) :: .caller .eventWait :: s.trace }

theorem execs_widthSet {s : State} {v : Word} {rest : List Word} (hstd : Standard s) (hat : At .init .in7 0 s)
    (hev : s.ev = true) (hhost : s.ctl.known .hostCtrl1 = false) (hreads : s.env.reads = v :: rest) :
    execs 5 .init s = .next (widthSet v rest s) := by
  have ⟨hc, _, _⟩ := hat
  have ⟨_, hk, _⟩ := hstd
  have hw1 : s.cfg.codes.w1 = 0 := by rw [hk]; rfl
  refine Eq.trans (execs_succ (exec_init_in7 hat)) ?_
  rw [inWait_signalled hev]
  refine Eq.trans (execs_succ (exec_init_in8 hc rfl)) ?_
  refine Eq.trans (execs_widthWritten hstd rfl hc rfl (.inl ⟨hw1, rfl⟩) hhost hreads) ?_
  have hcode : ∀ w : Word, w ||| (0 : Byte).setWidth 32 = w := fun w => BitVec.or_zero
  rw [widthWritten, hcode, finish_nested .success rfl]
  rfl

/-! ### IN.9 to IN.11 -/

/-- The register block once IN.9 and IN.10 have written HOST_CTRL1 and the four enables (R317, R318). -/
def enabledCtl (g : Cfg) (c : Ctl) : Ctl :=
  ((((c.put .hostCtrl1 0x10).put .nrmlIntStsEn (g.nrmlIntEnVal.setWidth 32)).put .errIntStsEn
    (g.errIntEnVal.setWidth 32)).put .nrmlIntSigEn (g.nrmlIntEnVal.setWidth 32)).put .errIntSigEn
    (g.errIntEnVal.setWidth 32)

theorem get_enabledCtl (g : Cfg) (c : Ctl) :
    (enabledCtl g c).get .hostCtrl1 = 0x10 ∧
    (enabledCtl g c).get .nrmlIntStsEn = g.nrmlIntEnVal.setWidth 32 ∧
    (enabledCtl g c).get .errIntStsEn = g.errIntEnVal.setWidth 32 ∧
    (enabledCtl g c).get .nrmlIntSigEn = g.nrmlIntEnVal.setWidth 32 ∧
    (enabledCtl g c).get .errIntSigEn = g.errIntEnVal.setWidth 32 := by
  refine ⟨?_, ?_, ?_, ?_, ?_⟩ <;> simp [enabledCtl, get_put, Reg.bits, Reg.width, and_low16]

theorem get_enabledCtl_pwrCtrl (g : Cfg) (c : Ctl) : (enabledCtl g c).get .pwrCtrl = c.get .pwrCtrl := by
  simp [enabledCtl, get_put]

/-- `s`, at IN.9, once SUCCESS is delivered. -/
def initEnded (s : State) : State :=
  { s with
    st := s.home, pos := 0, ret := none, cur := none, work := Work.blank
    ctl := enabledCtl s.cfg s.ctl
    trace := .answer .success :: .caller (.regWrite .errIntSigEn (s.cfg.errIntEnVal.setWidth 32)) ::
      .caller (.regWrite .nrmlIntSigEn (s.cfg.nrmlIntEnVal.setWidth 32)) ::
      .caller (.regWrite .errIntStsEn (s.cfg.errIntEnVal.setWidth 32)) ::
      .caller (.regWrite .nrmlIntStsEn (s.cfg.nrmlIntEnVal.setWidth 32)) ::
      .caller (.regWrite .hostCtrl1 0x10) :: s.trace }

theorem execs_initEnded {s : State} (hstd : Standard s) (hat : At .init .in9 0 s) (hret : s.ret = none) :
    execs 6 .init s = .next (initEnded s) := by
  have hb := hstd.1
  obtain ⟨hc, hst, -⟩ := hat
  simp only [execs, exec_init_in9, exec_init_in10, exec_init_in11, hc, hst, finish, hret, inEnables, goTo, hb,
    regWrite_byte (r := .hostCtrl1) rfl rfl, regWrite_half (r := .nrmlIntStsEn) rfl rfl nofun nofun,
    regWrite_half (r := .errIntStsEn) rfl rfl nofun nofun, regWrite_half (r := .nrmlIntSigEn) rfl rfl nofun nofun,
    regWrite_half (r := .errIntSigEn) rfl rfl nofun nofun]
  rfl

/-! ### A whole INIT -/

/-- `s`, waiting for INIT, once INIT waits in IN.7 for the power event. -/
def initWaiting (busy : List Word) (z c1 c2 : Word) (rest : List Word) (s : State) : State :=
  powerRequested (capVoltage Bits.default c1) (capsRead c1 c2 rest (initReset busy z (c1 :: c2 :: rest) s))

/-- Acceptance and IN.1 to IN.6. -/
theorem execs_initWaiting {s : State} {busy rest : List Word} {z c1 c2 : Word} (hstd : Standard s) (hc : s.cur = none)
    (hst : s.st = .uninit ∨ s.st = .idle) (hb : s.blockGone = false) (hspin : s.cfg.spinBound = none)
    (hreads : s.env.reads = busy ++ z :: c1 :: c2 :: rest) (hbusy : ∀ x ∈ busy, x &&& 0x01 ≠ 0)
    (hz : z &&& 0x01 = 0) :
    execs (busy.length + 11) .init s = .next (initWaiting busy z c1 c2 rest s) := by
  have hreset := execs_initReset hstd hc hst hb hspin hreads hbusy hz
  have hcaps := execs_capsRead (s := initReset busy z (c1 :: c2 :: rest) s) hstd ⟨rfl, rfl, rfl⟩ rfl
  have hpower := execs_powerRequested (s := capsRead c1 c2 rest (initReset busy z (c1 :: c2 :: rest) s)) hstd
    ⟨rfl, rfl, rfl⟩ rfl
  calc execs (busy.length + 11) .init s
    _ = execs (busy.length + 4 + (2 + 5)) .init s := rfl
    _ = .next (initWaiting busy z c1 c2 rest s) := (execs_add hreset).trans ((execs_add hcaps).trans hpower)

/-- IN.1 to IN.6 leave HOST_CTRL1 as the reset left it. -/
theorem known_initWaiting {s : State} (hb : s.cfg.bits = Bits.default) (busy : List Word) (z c1 c2 : Word)
    (rest : List Word) : (initWaiting busy z c1 c2 rest s).ctl.known .hostCtrl1 = false := by
  refine Eq.trans ?_ (known_initReset hb busy z (c1 :: c2 :: rest))
  simp [initWaiting, powerRequested, capsRead, answered, known_put]

/-- `s`, waiting for INIT, once the whole INIT has run with the handler in IN.7. -/
def initRan (busy : List Word) (z c1 c2 m hc : Word) (rest : List Word) (s : State) : State :=
  initEnded (widthSet hc rest (interrupted m (hc :: rest) (initWaiting busy z c1 c2 (m :: hc :: rest) s)))

/-- IN.7 to IN.11, once the handler has run. -/
theorem execs_initRan {s : State} (hstd : Standard s) (busy : List Word) (z c1 c2 m hc : Word) (rest : List Word) :
    execs 11 .init (interrupted m (hc :: rest) (initWaiting busy z c1 c2 (m :: hc :: rest) s)) =
      .next (initRan busy z c1 c2 m hc rest s) := by
  have hwidth := execs_widthSet (s := interrupted m (hc :: rest) (initWaiting busy z c1 c2 (m :: hc :: rest) s)) hstd
    ⟨rfl, rfl, rfl⟩ rfl (known_initWaiting hstd.1 busy z c1 c2 (m :: hc :: rest)) rfl
  exact (execs_add (n := 6) hwidth).trans (execs_initEnded hstd ⟨rfl, rfl, rfl⟩ rfl)

/-- The voltage requested in IN.6 stands in PWR_CTRL to the end. -/
theorem get_initRan_pwrCtrl (busy : List Word) (z c1 c2 m hc : Word) (rest : List Word) (s : State) :
    (initRan busy z c1 c2 m hc rest s).ctl.get .pwrCtrl =
      ((capVoltage Bits.default c1 <<< 1) ||| 0x01).setWidth 32 := by
  simp only [initRan, initEnded, get_enabledCtl_pwrCtrl, widthSet, interrupted, initWaiting, powerRequested]
  rw [get_put_ne _ _ (by decide), get_put_same]
  exact setWidth_byte _

/-- Settles O43: INIT up to its wait, the handler, and INIT from its wait on. -/
theorem initRun : Obligations.InitRun := by
  unfold Obligations.InitRun
  intro s busy z c1 c2 m hc rest hstd hcur hst hgone hspin hreads hbusy hz
  have hwaiting := execs_initWaiting hstd hcur hst hgone hspin hreads hbusy hz
  have hhandled := exec_interrupted (s := initWaiting busy z c1 c2 (m :: hc :: rest) s) hstd.1 rfl
  have hran := execs_initRan hstd busy z c1 c2 m hc rest
  have hpower := get_initRan_pwrCtrl busy z c1 c2 m hc rest s
  obtain ⟨hhost, hnrmlSts, herrSts, hnrmlSig, herrSig⟩ := get_enabledCtl s.cfg (widthSet hc rest _).ctl
  exact ⟨_, _, _, _, hwaiting, ⟨rfl, rfl, rfl⟩, rfl, rfl, hhandled, hran, rfl, rfl, rfl, rfl, rfl, rfl, rfl,
    hpower, hhost, hnrmlSts, herrSts, hnrmlSig, herrSig, rfl, rfl, rfl⟩

end Sys2Proof.Machine
end

section
/-! PROOFS. The statements of the family other: a loaded word is what the next step runs (log 13). The word is on offer at
the place of the instruction it decodes to, and what the load made ready lets the caller's turn run it. -/

namespace Sys2Proof.Machine

/-! ### Words as the opcode table numbers them -/

/-- Digits that decode anywhere decode at the place of their instruction. -/
theorem decodeAt_place {p : Place} {ds : List Digit} {i : Instr} (h : decodeAt p ds = .ok i) :
    decodeAt i.place ds = .ok i := by
  obtain ⟨-, hplace | ⟨hp, hi⟩⟩ := encodeDecodeAgree p ds i h
  · rwa [hplace]
  · have hop : decodeOp ds = .ok i := by obtain rfl | rfl := hp <;> exact h
    obtain hi | hi := hi <;> rw [hi] <;> exact hop

theorem decodeFirst_decodeAt {ds : List Digit} {ps : List Place} {i : Instr} (h : decodeFirst ds ps = some i) :
    ∃ p, decodeAt p ds = .ok i := by
  induction ps with
  | nil => cases h
  | cons p ps ih =>
    unfold decodeFirst at h
    split at h
    · rename_i j hj
      cases h
      exact ⟨p, hj⟩
    · exact ih h

/-- An opcode-table word decodes, at the place of its instruction, to that instruction (log 12). -/
theorem decodeTableWord_decodeAt {nbits w : Nat} {i : Instr} (h : decodeTableWord nbits w = some i) :
    decodeAt i.place (tableDigits nbits w) = .ok i := by
  have hsome : ∃ p, decodeAt p (tableDigits nbits w) = .ok i := by
    unfold decodeTableWord at h
    split at h
    · rename_i j hj
      split at h
      · cases h
        exact ⟨.port, hj⟩
      · exact decodeFirst_decodeAt h
    · exact decodeFirst_decodeAt h
  obtain ⟨p, hp⟩ := hsome
  exact decodeAt_place hp

/-! ### What a load makes ready -/

theorem loadFor_not_aborted (i : Instr) {s : State} (ha : s.st ≠ .aborted) : (loadFor i s).st ≠ .aborted := by
  cases i with
  | init | modeEnable =>
    simp only [loadFor]
    split
    · exact ha
    · nofun
  | setSdrMode | setDdrMode =>
    simp only [loadFor]
    split <;> nofun
  | sendCommand | clkSupply | setBusWidth | reserved7 | reserved14 | reserved15 | changeFrequency | buildTable
  | softReset | respExtract | errDecode | adma2Entry => nofun
  | pwrIrq => exact ha
  | wordCmd | wordTransmode | wordClk | wordSwReset | wordPwrAck | wordStsClear =>
    simpa only [loadFor, if_neg ha] using ha

/-- The loaded state: the caller's turn is next, and the word is on offer at the place of its instruction. -/
theorem withFetchWord_eq {nbits w : Nat} {i : Instr} (h : decodeTableWord nbits w = some i) (s : State) :
    s.withFetchWord nbits w =
      { loadFor i s with
        cur := none
        ret := none
        offer := some ⟨i.place, tableDigits nbits w⟩
        env := { (loadFor i s).env with sched := .caller :: (loadFor i s).env.sched } } := by
  simp only [State.withFetchWord, loadWord, loadOffer, h]

/-- Settles O6: the turn at the head of the schedule is the caller's, with the word on offer and no operation running. -/
theorem loadedWordRunsNext : Obligations.LoadedWordRunsNext := by
  unfold Obligations.LoadedWordRunsNext
  intro s nbits w i ha hword
  obtain ⟨-, hoffered, -⟩ := stepRunsInstruction
  have hport : ¬(i.place = .port ∧ isInternal i = true) := by
    rintro ⟨hp, hint⟩
    simp [isInternal, hp] at hint
  have hline : i = .pwrIrq → (loadFor i s).irq.pending = true ∧ (loadFor i s).irq.masked = false := by
    rintro rfl
    exact ⟨rfl, rfl⟩
  rw [withFetchWord_eq hword]
  exact hoffered _ i ⟨i.place, tableDigits nbits w⟩ _ rfl rfl (loadFor_not_aborted i ha) rfl
    (decodeTableWord_decodeAt hword) hport hline

end Sys2Proof.Machine
end
